-- ==== Sys2Proof/Word.lean ====
section
/-! DEFINITION. The plain types every other file is written over: the widths of rule R11 and rule R7
(00_scope.md). No value of this instruction set is signed. -/

namespace Sys2Proof

/-- An 8-bit register, memory byte or immediate NN (R11, R22). -/
abbrev Byte := BitVec 8

/-- A 16-bit opcode, stack entry, I or PC (R24, R27, R28, R70). -/
abbrev Word := BitVec 16

/-- The 12-bit address field NNN (R71). -/
abbrev Addr12 := BitVec 12

/-- A register index 0x0–0xF, selecting V0–VF (R22, R72). -/
abbrev Reg := Fin 16

/-- A logical key 0x0–0xF (R33). -/
abbrev Key := Fin 16

end Sys2Proof
end

