-- ==== Sys2Proof/Syntax.lean ====
section
/-! DEFINITION. The 34 instructions of the opcode map (30_encoding.md R78), one constructor a row, in the
row order of spec/opcode_table.json. Names are the variant names of rule R16 (00_scope.md); operands are
the fields of rule R71. -/

namespace Sys2Proof

/-- One canonical CHIP-8 instruction. Registers and immediates have exactly the width of their field;
the row count N of `draw` is a count (`WellFormed` bounds it). -/
inductive Instr where
  /-- 00E0 `CLS` (R175). -/
  | clearDisplay
  /-- 00EE `RET` (R121). -/
  | ret
  /-- 1NNN `JP NNN` (R122). -/
  | jump (nnn : Addr12)
  /-- 2NNN `CALL NNN` (R123). -/
  | call (nnn : Addr12)
  /-- 3XNN `SE VX, NN` (R131). -/
  | skipEqByte (x : Reg) (nn : Byte)
  /-- 4XNN `SNE VX, NN` (R132). -/
  | skipNeByte (x : Reg) (nn : Byte)
  /-- 5XY0 `SE VX, VY` (R133). -/
  | skipEqReg (x y : Reg)
  /-- 6XNN `LD VX, NN` (R141). -/
  | loadByte (x : Reg) (nn : Byte)
  /-- 7XNN `ADD VX, NN` (R142). -/
  | addByte (x : Reg) (nn : Byte)
  /-- 8XY0 `LD VX, VY` (R143). -/
  | move (x y : Reg)
  /-- 8XY1 `OR VX, VY` (R144). -/
  | or (x y : Reg)
  /-- 8XY2 `AND VX, VY` (R145). -/
  | and (x y : Reg)
  /-- 8XY3 `XOR VX, VY` (R146). -/
  | xor (x y : Reg)
  /-- 8XY4 `ADD VX, VY` (R147). -/
  | addReg (x y : Reg)
  /-- 8XY5 `SUB VX, VY` (R148). -/
  | sub (x y : Reg)
  /-- 8XY6 `SHR VX {, VY}` (R149). Y is part of the word and has no effect (R82). -/
  | shiftRight (x y : Reg)
  /-- 8XY7 `SUBN VX, VY` (R150). -/
  | subReverse (x y : Reg)
  /-- 8XYE `SHL VX {, VY}` (R151). Y is part of the word and has no effect (R82). -/
  | shiftLeft (x y : Reg)
  /-- 9XY0 `SNE VX, VY` (R134). -/
  | skipNeReg (x y : Reg)
  /-- ANNN `LD I, NNN` (R161). -/
  | loadI (nnn : Addr12)
  /-- BNNN `JP V0, NNN` (R124). -/
  | jumpPlusZero (nnn : Addr12)
  /-- CXNN `RND VX, NN` (R171). -/
  | random (x : Reg) (nn : Byte)
  /-- DXYN `DRW VX, VY, N` (R176); n is the row count. -/
  | draw (x y : Reg) (n : Nat)
  /-- EX9E `SKP VX` (R135). -/
  | skipKeyPressed (x : Reg)
  /-- EXA1 `SKNP VX` (R136). -/
  | skipKeyNotPressed (x : Reg)
  /-- FX07 `LD VX, DT` (R186). -/
  | loadDelayTimer (x : Reg)
  /-- FX0A `LD VX, K` (R189). -/
  | waitForKeyPress (x : Reg)
  /-- FX15 `LD DT, VX` (R187). -/
  | setDelayTimer (x : Reg)
  /-- FX18 `LD ST, VX` (R188). -/
  | setSoundTimer (x : Reg)
  /-- FX1E `ADD I, VX` (R162). -/
  | addI (x : Reg)
  /-- FX29 `LD F, VX` (R163). -/
  | loadSprite (x : Reg)
  /-- FX33 `LD B, VX` (R196). -/
  | storeBCD (x : Reg)
  /-- FX55 `LD [I], VX` (R197). -/
  | storeRegisters (x : Reg)
  /-- FX65 `LD VX, [I]` (R198). -/
  | loadRegisters (x : Reg)
  deriving DecidableEq, Repr

end Sys2Proof
end

