-- ==== Sys2Proof/WellFormed.lean ====
section
/-! DEFINITION. When an instruction term is one an opcode can spell. Every operand but one has exactly the
width of its field by its type; the row count N of `Draw` is a plain number, and its field has 4 bits:
"N is an unsigned 4-bit count 0–15" (30_encoding.md R72). -/

namespace Sys2Proof

/-- The check of R72 on the one operand its type does not bound. -/
def Instr.wellFormed : Instr → Bool
  | .draw _ _ n => decide (n < 16)
  | .clearDisplay | .ret | .jump _ | .call _
  | .skipEqByte _ _ | .skipNeByte _ _ | .skipEqReg _ _ | .skipNeReg _ _
  | .loadByte _ _ | .addByte _ _ | .move _ _ | .or _ _ | .and _ _ | .xor _ _
  | .addReg _ _ | .sub _ _ | .shiftRight _ _ | .subReverse _ _ | .shiftLeft _ _
  | .loadI _ | .jumpPlusZero _ | .random _ _
  | .skipKeyPressed _ | .skipKeyNotPressed _
  | .loadDelayTimer _ | .waitForKeyPress _ | .setDelayTimer _ | .setSoundTimer _
  | .addI _ | .loadSprite _ | .storeBCD _ | .storeRegisters _ | .loadRegisters _ => true

/-- An instruction some opcode spells. -/
abbrev Instr.WellFormed (i : Instr) : Prop := i.wellFormed = true

end Sys2Proof
end

