-- ==== Sys2Proof/Decode.lean ====
section
/-! DEFINITION. The decoder of 30_encoding.md (R70–R82), total on every word and on every list of bytes,
rejecting by name; then the encoder, written from the same opcode map (R78); then the opcode map itself
as mask and match rows. -/

namespace Sys2Proof

/-- What `Decode(w)` answers (R73): one instruction with its operands, or `DecodeFailure(w)` carrying
the word. -/
inductive DecodeResult where
  | instr (i : Instr)
  | decodeFailure (w : Word)
  deriving DecidableEq, Repr

/-! ### The fields of a word (R71) -/

/-- `op`: w[15:12]. -/
def opField (w : Word) : Nat := (w.extractLsb' 12 4).toNat

/-- `X`: w[11:8]. -/
def xField (w : Word) : Reg := ⟨(w.extractLsb' 8 4).toNat, (w.extractLsb' 8 4).isLt⟩

/-- `Y`: w[7:4]. -/
def yField (w : Word) : Reg := ⟨(w.extractLsb' 4 4).toNat, (w.extractLsb' 4 4).isLt⟩

/-- `N`: w[3:0]. -/
def nField (w : Word) : Nat := (w.extractLsb' 0 4).toNat

/-- `NN`: w[7:0]. -/
def nnField (w : Word) : Byte := w.extractLsb' 0 8

/-- `NNN`: w[11:0]. -/
def nnnField (w : Word) : Addr12 := w.extractLsb' 0 12

/-! ### Decode (R77), family by family -/

/-- Family 0x0: exactly 0x00E0 and 0x00EE; everything else, the host call 0NNN included, fails
(R75, R80). -/
def decode0 (w : Word) : DecodeResult :=
  if w = 0x00E0#16 then .instr .clearDisplay
  else if w = 0x00EE#16 then .instr .ret
  else .decodeFailure w

/-- Family 0x8, split on N (R74, R77). -/
def decode8 (w : Word) : DecodeResult :=
  match nField w with
  | 0x0 => .instr (.move (xField w) (yField w))
  | 0x1 => .instr (.or (xField w) (yField w))
  | 0x2 => .instr (.and (xField w) (yField w))
  | 0x3 => .instr (.xor (xField w) (yField w))
  | 0x4 => .instr (.addReg (xField w) (yField w))
  | 0x5 => .instr (.sub (xField w) (yField w))
  | 0x6 => .instr (.shiftRight (xField w) (yField w))
  | 0x7 => .instr (.subReverse (xField w) (yField w))
  | 0xE => .instr (.shiftLeft (xField w) (yField w))
  | _ => .decodeFailure w

/-- Family 0xE, split on NN (R74, R77). -/
def decodeE (w : Word) : DecodeResult :=
  match (nnField w).toNat with
  | 0x9E => .instr (.skipKeyPressed (xField w))
  | 0xA1 => .instr (.skipKeyNotPressed (xField w))
  | _ => .decodeFailure w

/-- Family 0xF, split on NN (R74, R77). -/
def decodeF (w : Word) : DecodeResult :=
  match (nnField w).toNat with
  | 0x07 => .instr (.loadDelayTimer (xField w))
  | 0x0A => .instr (.waitForKeyPress (xField w))
  | 0x15 => .instr (.setDelayTimer (xField w))
  | 0x18 => .instr (.setSoundTimer (xField w))
  | 0x1E => .instr (.addI (xField w))
  | 0x29 => .instr (.loadSprite (xField w))
  | 0x33 => .instr (.storeBCD (xField w))
  | 0x55 => .instr (.storeRegisters (xField w))
  | 0x65 => .instr (.loadRegisters (xField w))
  | _ => .decodeFailure w

/-- `Decode(w)` (R73, R77): pure, total, dispatching on `op`. The last arm is never reached, since
`op` has 4 bits. -/
def decode (w : Word) : DecodeResult :=
  match opField w with
  | 0x0 => decode0 w
  | 0x1 => .instr (.jump (nnnField w))
  | 0x2 => .instr (.call (nnnField w))
  | 0x3 => .instr (.skipEqByte (xField w) (nnField w))
  | 0x4 => .instr (.skipNeByte (xField w) (nnField w))
  | 0x5 => if nField w = 0 then .instr (.skipEqReg (xField w) (yField w)) else .decodeFailure w
  | 0x6 => .instr (.loadByte (xField w) (nnField w))
  | 0x7 => .instr (.addByte (xField w) (nnField w))
  | 0x8 => decode8 w
  | 0x9 => if nField w = 0 then .instr (.skipNeReg (xField w) (yField w)) else .decodeFailure w
  | 0xA => .instr (.loadI (nnnField w))
  | 0xB => .instr (.jumpPlusZero (nnnField w))
  | 0xC => .instr (.random (xField w) (nnField w))
  | 0xD => .instr (.draw (xField w) (yField w) (nField w))
  | 0xE => decodeE w
  | 0xF => decodeF w
  | _ => .decodeFailure w

/-- What decoding a list of bytes answers: an instruction with the bytes after it, the failure of R73,
or fewer than the two bytes an instruction has (R70). -/
inductive BytesResult where
  | instr (i : Instr) (rest : List Byte)
  | decodeFailure (w : Word)
  | truncated
  deriving DecidableEq, Repr

/-- Big-endian assembly of an opcode: the byte at the lower address supplies bits 15:8 (R52). -/
def wordOfBytes (hi lo : Byte) : Word := hi ++ lo

/-- Decoding from bytes as they lie in memory: always exactly two (R70, R52). -/
def decodeBytes : List Byte → BytesResult
  | hi :: lo :: rest =>
    match decode (wordOfBytes hi lo) with
    | .instr i => .instr i rest
    | .decodeFailure w => .decodeFailure w
  | _ => .truncated

/-! ### Encode, from the same rows (R78) -/

/-- The 4-bit field of a register index (R72). -/
def regBits (x : Reg) : BitVec 4 := BitVec.ofNat 4 x.val

/-- Format `op-NNN`. -/
def packNNN (op : BitVec 4) (nnn : Addr12) : Word := op ++ nnn

/-- Formats `op-X-NN` and `op-X-subbyte`. -/
def packXNN (op : BitVec 4) (x : Reg) (nn : Byte) : Word := op ++ (regBits x ++ nn)

/-- Formats `op-X-Y-N` and `op-X-Y-sub`. -/
def packXYN (op : BitVec 4) (x y : Reg) (n : BitVec 4) : Word :=
  op ++ (regBits x ++ (regBits y ++ n))

/-- The opcode of an instruction (R78). -/
def encode : Instr → Word
  | .clearDisplay => 0x00E0#16
  | .ret => 0x00EE#16
  | .jump nnn => packNNN 0x1#4 nnn
  | .call nnn => packNNN 0x2#4 nnn
  | .skipEqByte x nn => packXNN 0x3#4 x nn
  | .skipNeByte x nn => packXNN 0x4#4 x nn
  | .skipEqReg x y => packXYN 0x5#4 x y 0x0#4
  | .loadByte x nn => packXNN 0x6#4 x nn
  | .addByte x nn => packXNN 0x7#4 x nn
  | .move x y => packXYN 0x8#4 x y 0x0#4
  | .or x y => packXYN 0x8#4 x y 0x1#4
  | .and x y => packXYN 0x8#4 x y 0x2#4
  | .xor x y => packXYN 0x8#4 x y 0x3#4
  | .addReg x y => packXYN 0x8#4 x y 0x4#4
  | .sub x y => packXYN 0x8#4 x y 0x5#4
  | .shiftRight x y => packXYN 0x8#4 x y 0x6#4
  | .subReverse x y => packXYN 0x8#4 x y 0x7#4
  | .shiftLeft x y => packXYN 0x8#4 x y 0xE#4
  | .skipNeReg x y => packXYN 0x9#4 x y 0x0#4
  | .loadI nnn => packNNN 0xA#4 nnn
  | .jumpPlusZero nnn => packNNN 0xB#4 nnn
  | .random x nn => packXNN 0xC#4 x nn
  | .draw x y n => packXYN 0xD#4 x y (BitVec.ofNat 4 n)
  | .skipKeyPressed x => packXNN 0xE#4 x 0x9E#8
  | .skipKeyNotPressed x => packXNN 0xE#4 x 0xA1#8
  | .loadDelayTimer x => packXNN 0xF#4 x 0x07#8
  | .waitForKeyPress x => packXNN 0xF#4 x 0x0A#8
  | .setDelayTimer x => packXNN 0xF#4 x 0x15#8
  | .setSoundTimer x => packXNN 0xF#4 x 0x18#8
  | .addI x => packXNN 0xF#4 x 0x1E#8
  | .loadSprite x => packXNN 0xF#4 x 0x29#8
  | .storeBCD x => packXNN 0xF#4 x 0x33#8
  | .storeRegisters x => packXNN 0xF#4 x 0x55#8
  | .loadRegisters x => packXNN 0xF#4 x 0x65#8

/-- The two bytes of an opcode in memory order, high byte first (R52, R83). -/
def bytesOfWord (w : Word) : Byte × Byte := (w.extractLsb' 8 8, w.extractLsb' 0 8)

/-! ### The opcode map as data (R78) -/

/-- One row of R78: a word w is of this row when `w & mask = match`. -/
structure OpcodeRow where
  mask : Word
  value : Word
  deriving DecidableEq, Repr

/-- "`w & mask = match`" (R78). -/
def OpcodeRow.covers (r : OpcodeRow) (w : Word) : Bool := w &&& r.mask == r.value

/-- The row of R78 an instruction belongs to. -/
def Instr.row : Instr → OpcodeRow
  | .clearDisplay => ⟨0xFFFF, 0x00E0⟩
  | .ret => ⟨0xFFFF, 0x00EE⟩
  | .jump _ => ⟨0xF000, 0x1000⟩
  | .call _ => ⟨0xF000, 0x2000⟩
  | .skipEqByte _ _ => ⟨0xF000, 0x3000⟩
  | .skipNeByte _ _ => ⟨0xF000, 0x4000⟩
  | .skipEqReg _ _ => ⟨0xF00F, 0x5000⟩
  | .loadByte _ _ => ⟨0xF000, 0x6000⟩
  | .addByte _ _ => ⟨0xF000, 0x7000⟩
  | .move _ _ => ⟨0xF00F, 0x8000⟩
  | .or _ _ => ⟨0xF00F, 0x8001⟩
  | .and _ _ => ⟨0xF00F, 0x8002⟩
  | .xor _ _ => ⟨0xF00F, 0x8003⟩
  | .addReg _ _ => ⟨0xF00F, 0x8004⟩
  | .sub _ _ => ⟨0xF00F, 0x8005⟩
  | .shiftRight _ _ => ⟨0xF00F, 0x8006⟩
  | .subReverse _ _ => ⟨0xF00F, 0x8007⟩
  | .shiftLeft _ _ => ⟨0xF00F, 0x800E⟩
  | .skipNeReg _ _ => ⟨0xF00F, 0x9000⟩
  | .loadI _ => ⟨0xF000, 0xA000⟩
  | .jumpPlusZero _ => ⟨0xF000, 0xB000⟩
  | .random _ _ => ⟨0xF000, 0xC000⟩
  | .draw _ _ _ => ⟨0xF000, 0xD000⟩
  | .skipKeyPressed _ => ⟨0xF0FF, 0xE09E⟩
  | .skipKeyNotPressed _ => ⟨0xF0FF, 0xE0A1⟩
  | .loadDelayTimer _ => ⟨0xF0FF, 0xF007⟩
  | .waitForKeyPress _ => ⟨0xF0FF, 0xF00A⟩
  | .setDelayTimer _ => ⟨0xF0FF, 0xF015⟩
  | .setSoundTimer _ => ⟨0xF0FF, 0xF018⟩
  | .addI _ => ⟨0xF0FF, 0xF01E⟩
  | .loadSprite _ => ⟨0xF0FF, 0xF029⟩
  | .storeBCD _ => ⟨0xF0FF, 0xF033⟩
  | .storeRegisters _ => ⟨0xF0FF, 0xF055⟩
  | .loadRegisters _ => ⟨0xF0FF, 0xF065⟩

/-- Rows 1 to 9 of R78. -/
def opcodeRows1 : List OpcodeRow :=
  [⟨0xFFFF, 0x00E0⟩, ⟨0xFFFF, 0x00EE⟩, ⟨0xF000, 0x1000⟩, ⟨0xF000, 0x2000⟩, ⟨0xF000, 0x3000⟩,
   ⟨0xF000, 0x4000⟩, ⟨0xF00F, 0x5000⟩, ⟨0xF000, 0x6000⟩, ⟨0xF000, 0x7000⟩]

/-- Rows 10 to 18 of R78, family 0x8. -/
def opcodeRows2 : List OpcodeRow :=
  [⟨0xF00F, 0x8000⟩, ⟨0xF00F, 0x8001⟩, ⟨0xF00F, 0x8002⟩, ⟨0xF00F, 0x8003⟩, ⟨0xF00F, 0x8004⟩,
   ⟨0xF00F, 0x8005⟩, ⟨0xF00F, 0x8006⟩, ⟨0xF00F, 0x8007⟩, ⟨0xF00F, 0x800E⟩]

/-- Rows 19 to 25 of R78. -/
def opcodeRows3 : List OpcodeRow :=
  [⟨0xF00F, 0x9000⟩, ⟨0xF000, 0xA000⟩, ⟨0xF000, 0xB000⟩, ⟨0xF000, 0xC000⟩, ⟨0xF000, 0xD000⟩,
   ⟨0xF0FF, 0xE09E⟩, ⟨0xF0FF, 0xE0A1⟩]

/-- Rows 26 to 34 of R78, family 0xF. -/
def opcodeRows4 : List OpcodeRow :=
  [⟨0xF0FF, 0xF007⟩, ⟨0xF0FF, 0xF00A⟩, ⟨0xF0FF, 0xF015⟩, ⟨0xF0FF, 0xF018⟩, ⟨0xF0FF, 0xF01E⟩,
   ⟨0xF0FF, 0xF029⟩, ⟨0xF0FF, 0xF033⟩, ⟨0xF0FF, 0xF055⟩, ⟨0xF0FF, 0xF065⟩]

/-- The 34 rows of R78, in its order. -/
def opcodeMap : List OpcodeRow := opcodeRows1 ++ opcodeRows2 ++ opcodeRows3 ++ opcodeRows4

/-- The word of a table row as spec/opcode_table.json numbers its bits: one 16-bit word, bit 0 the
least significant (R10); bits at and above `nbits` are 0. -/
def tableWord (nbits w : Nat) : Word := BitVec.ofNat 16 (w % 2 ^ nbits)

/-- What the decoder reads from a table word: the word is laid out in memory order (high byte first,
R52) and given to `decodeBytes`. -/
def decodeTableWord (nbits w : Nat) : Option Instr :=
  let b := bytesOfWord (tableWord nbits w)
  match decodeBytes [b.1, b.2] with
  | .instr i _ => some i
  | .decodeFailure _ => none
  | .truncated => none

end Sys2Proof
end

