-- ==== Sys2Proof/Config.lean ====
section
/-! DEFINITION. What is fixed for this hardware: the parameters of rule R7 (00_scope.md), none of them
open (R8), and the one value the spec leaves free, the random byte (45_random.md R170). -/

namespace Sys2Proof.Config

/-- `MEM_SIZE`: bytes of memory, addresses 0x000–0xFFF (R7, R50). -/
def memSize : Nat := 4096

/-- `PROG_START`: where the image is loaded, and the reset PC (R7, R241). -/
def progStart : Nat := 0x200

/-- `PROG_MAX`: the largest image, `MEM_SIZE − PROG_START` = 3584 bytes (R7, R243). -/
def progMax : Nat := 3584

/-- `INSN_BYTES`: every instruction is two bytes (R7, R70). -/
def insnBytes : Nat := 2

/-- `STACK_DEPTH`: return-address entries (R7, R28). -/
def stackDepth : Nat := 16

/-- `DISP_W`: columns of the pixel grid (R7, R32). -/
def dispW : Nat := 64

/-- `DISP_H`: rows of the pixel grid (R7, R32). -/
def dispH : Nat := 32

/-- `GLYPH_BYTES`: bytes of one font glyph (R7, R60). -/
def glyphBytes : Nat := 5

/-- The random byte of a `Random` for which the host has supplied none: "any value 0–255, under no
law" (R170). It has no body, so no proof can know it; it is applied to the count of draws made, so
that two draws need not agree. Log entry 2. -/
opaque freeRandomByte : Nat → Byte

end Sys2Proof.Config
end

