-- ==== Sys2Proof/Machine/State.lean ====
section
/-! DEFINITION. The machine state of 10_state.md (R20–R37) as plain data, the reasons a step can stop
(60_exceptions.md R210), and the state after reset (R37, R240). Beside the spec's state, State holds the
host's side of the transaction interface (R40–R47): what the host does next, and the random source. -/

namespace Sys2Proof.Machine

/-- The info of an OutOfBounds fault (R210). -/
inductive BoundsInfo where
  /-- `Mem(a)`: the lowest address of the access that is not in memory (R55). -/
  | mem (a : Nat)
  /-- `Key(v)`: the key index v = V[X], 16–255 (R135, R136). -/
  | key (v : Byte)
  deriving DecidableEq, Repr

/-- The faults an execute step surfaces (R210). A fault ends the step with the state unchanged (R104,
R211); it saves nothing and goes nowhere, since the core has no trap mechanism (R215). -/
inductive Fault where
  /-- Raised by the execute step on a word of no row (R103). Safe: the spec decodes strictly (D5), so a
  looser machine would go on where the model stops. -/
  | decodeFailure (w : Word)
  /-- Raised by `Call` at SP = 16 (R123). The spec's own fault: safe. -/
  | stackOverflow
  /-- Raised by `Return` at SP = 0 (R121). The spec's own fault: safe. -/
  | stackUnderflow
  /-- Raised by the fetch (R102), `Draw` (R176), `StoreBCD`, `StoreRegisters`, `LoadRegisters`
  (R196–R198) on an access past memory, and by `SkipKeyPressed`, `SkipKeyNotPressed` (R135, R136) on a
  key index above 0xF. The spec's own faults: safe (D9, D26: a machine that wraps or masks would go on). -/
  | outOfBounds (info : BoundsInfo)
  deriving DecidableEq, Repr

/-- Reasons an outcome is refused. -/
inductive Refusal where
  /-- Answered by `exec` for an instruction that has no meaning yet. No arm answers it: every one of
  the 34 instructions has its meaning. Safe. -/
  | notModelled (mnemonic : String)
  /-- Answered by the loader's `load` for an image longer than 3584 bytes (R243, fault code 5 of R210);
  never by an execute step. The spec's own refusal: safe. -/
  | loadTooLarge (length : Nat)
  deriving DecidableEq, Repr

/-- One atomic transaction the host can issue to the running core (R40). `LOAD` is boot only (R47) and
is the function `load`. -/
inductive Transaction where
  /-- `EXEC` (R41). -/
  | exec
  /-- `TICK` (R42). -/
  | tick
  /-- `KEY(k, p)` (R46). -/
  | key (k : Key) (pressed : Bool)
  /-- `DISP_READ` (R43). -/
  | dispRead
  /-- `DISP_ACK` (R44). -/
  | dispAck
  /-- `RNG` (R45): the injected source is given the next byte it will return. -/
  | rng (b : Byte)
  deriving DecidableEq, Repr

/-- Memory: a byte for each listed address, addresses strictly rising, no entry equal to what an
unlisted address reads as (`Memory.wf` in Ops.lean). What an unlisted address reads as is
`Font.resetByte`, the reset contents of R37. -/
abbrev Memory := List Host.Cell

/-- The pixel grid, G[x][y] with 64 columns x and 32 rows y; true is set (R32). -/
abbrev Grid := Vector (Vector Bool 32) 64

/-- The one machine state (R20), and after it the host's side of the interface. -/
structure State where
  /-- V0–VF (R22); VF is v[15] (R23). -/
  v : Vector Byte 16
  /-- I (R27). -/
  i : Word
  /-- PC (R24). -/
  pc : Word
  /-- SP, 0–16 (R28). -/
  sp : Fin 17
  /-- S[0..15] (R28). -/
  stack : Vector Word 16
  /-- DT (R30). -/
  dt : Byte
  /-- ST (R30). -/
  st : Byte
  /-- G (R32). -/
  grid : Grid
  /-- K[0x0..0xF], true meaning pressed (R33). -/
  keys : Vector Bool 16
  /-- DIRTY (R34). -/
  dirty : Bool
  /-- M[0x000..0xFFF] (R50). -/
  mem : Memory
  /-- The host's side, not the core's: the transactions the host issues next, first one first (R40,
  R112). When the list is empty the host issues `EXEC`. Log entry 1. -/
  schedule : List Transaction
  /-- The host's side, not the core's: the bytes the injected random source returns next (R36, R45).
  Log entry 2. -/
  rngInput : List Byte
  /-- The model's own: how many free random bytes have been drawn. Log entry 2. -/
  rngDraws : Nat
  deriving DecidableEq, Repr

/-- The state right after reset (R37, R240). Values the source gives: PC, SP, DT, ST, G. Values the spec
decides (D14): V, I, S, K, DIRTY, memory. Nothing of the host's side is given: empty schedule, no byte in the
random source (log entries 1, 2, 3). -/
def State.reset : State where
  v := Vector.replicate 16 0
  i := 0
  pc := 0x200
  sp := 0
  stack := Vector.replicate 16 0
  dt := 0
  st := 0
  grid := Vector.replicate 64 (Vector.replicate 32 false)
  keys := Vector.replicate 16 false
  dirty := false
  mem := []
  schedule := []
  rngInput := []
  rngDraws := 0

end Sys2Proof.Machine
end

