-- ==== Sys2Proof/Machine/Font.lean ====
section
/-! DEFINITION. The font glyph table (20_memory.md R59, R60) and the reset contents of memory (10_state.md
R37), which is what an address reads as until something writes it. -/

namespace Sys2Proof.Machine.Font

/-- `FONT_BASE`: the address of glyph 0 (R7, R59; D12). -/
def fontBase : Nat := 0x050

/-- Glyphs 0 to 7 (R60). -/
def glyphsLow : List (List Byte) :=
  [[0xF0, 0x90, 0x90, 0x90, 0xF0], [0x20, 0x60, 0x20, 0x20, 0x70],
   [0xF0, 0x10, 0xF0, 0x80, 0xF0], [0xF0, 0x10, 0xF0, 0x10, 0xF0],
   [0x90, 0x90, 0xF0, 0x10, 0x10], [0xF0, 0x80, 0xF0, 0x10, 0xF0],
   [0xF0, 0x80, 0xF0, 0x90, 0xF0], [0xF0, 0x10, 0x20, 0x40, 0x40]]

/-- Glyphs 8 to F (R60). -/
def glyphsHigh : List (List Byte) :=
  [[0xF0, 0x90, 0xF0, 0x90, 0xF0], [0xF0, 0x90, 0xF0, 0x10, 0xF0],
   [0xF0, 0x90, 0xF0, 0x90, 0x90], [0xE0, 0x90, 0xE0, 0x90, 0xE0],
   [0xF0, 0x80, 0x80, 0x80, 0xF0], [0xE0, 0x90, 0x90, 0x90, 0xE0],
   [0xF0, 0x80, 0xF0, 0x80, 0xF0], [0xF0, 0x80, 0xF0, 0x80, 0x80]]

/-- The 16 glyphs, glyph d its five bytes in address order (R60; D13). -/
def glyphs : List (List Byte) := glyphsLow ++ glyphsHigh

/-- The address of glyph d: `FONT_BASE + 5·d` (R59). -/
def glyphAddr (d : Nat) : Nat := fontBase + Config.glyphBytes * d

/-- What an address holds at reset: the font bytes at 0x050–0x09F, 0 everywhere else (R37; D14). -/
def resetByte (a : Nat) : Byte :=
  if fontBase ≤ a ∧ a < glyphAddr 16 then
    (glyphs.getD ((a - fontBase) / Config.glyphBytes) []).getD ((a - fontBase) % Config.glyphBytes) 0
  else 0

end Sys2Proof.Machine.Font
end

