-- ==== Sys2Proof/Machine/Ops.lean ====
section
/-! DEFINITION. The named operations every meaning is written over: memory (20_memory.md), registers
(10_state.md), the program counter (40_cycle.md R106), the call stack (41_control_flow.md), the pixel grid
(46_display.md), the random source (45_random.md), the random byte's draw, and `raise` (40_cycle.md R104). -/

namespace Sys2Proof.Machine

/-! ### Faults -/

/-- `raise F(info)`: the step ends at once, the state is the one at its start (R104, R211). This is all
that taking an exception is on this core: nothing is saved, no mode changes, control goes nowhere, and
there is no return from it (R215). -/
def raise (f : Fault) : Host.Outcome State Fault Refusal := .fault f

/-- An instruction's one check (R110), then its effect: the fault if the check names one, else the next
state, committed as a whole (R107, R57). -/
def guarded (check : Option Fault) (t : State) : Host.Outcome State Fault Refusal :=
  match check with
  | some f => raise f
  | none => .next t

/-- `Bounds(a, n)` over exact integers (R55, R56). -/
def boundsFault (a n : Nat) : Option Fault :=
  if n = 0 then none
  else if a + n - 1 < Config.memSize then none
  else some (.outOfBounds (.mem (max a Config.memSize)))

/-! ### Memory -/

/-- The byte at an address: what was last written, or the reset contents (R61, R37). -/
def Memory.read : Memory → Nat → Byte
  | [], a => Font.resetByte a
  | (c, d) :: m, a => if a = c then d else Memory.read m a

/-- The list with address a holding b in front of m, all of whose addresses are above a: listed only if
it differs from what the unlisted address reads as. -/
def Memory.consByte (a : Nat) (b : Byte) (m : Memory) : Memory :=
  if b = Font.resetByte a then m else (a, b) :: m

/-- Write one byte, keeping the canonical form (R50, R53). -/
def Memory.write : Memory → Nat → Byte → Memory
  | [], a, b => Memory.consByte a b []
  | (c, d) :: m, a, b =>
    if a < c then Memory.consByte a b ((c, d) :: m)
    else if a = c then Memory.consByte a b m
    else (c, d) :: Memory.write m a b

/-- The canonical form from address `lo` on: addresses strictly rising, inside memory, and no entry
equal to what the unlisted address reads as. -/
def Memory.wfFrom (lo : Nat) : Memory → Bool
  | [] => true
  | (c, d) :: m =>
    decide (lo ≤ c) && decide (c < Config.memSize) && decide (d ≠ Font.resetByte c) && Memory.wfFrom (c + 1) m

/-- The canonical form of memory. -/
def Memory.wf (m : Memory) : Bool := Memory.wfFrom 0 m

/-- Single-byte writes at ascending addresses, byte k at a + k (R53). -/
def Memory.writeBytes : Memory → Nat → List Byte → Memory
  | m, _, [] => m
  | m, a, b :: bs => Memory.writeBytes (Memory.write m a b) (a + 1) bs

/-- `MemRead(a, 2)`: big-endian, the byte at the lower address supplying bits 15:8 (R52). -/
def Memory.readWord (m : Memory) (a : Nat) : Word :=
  wordOfBytes (Memory.read m a) (Memory.read m (a + 1))

/-! ### Registers -/

/-- `V[x]` (R22). -/
def State.readV (s : State) (x : Reg) : Byte := s.v[x.val]

/-- `V[x] <- b` (R22). -/
def State.writeV (s : State) (x : Reg) (b : Byte) : State := { s with v := s.v.set x.val b x.isLt }

/-- `for k in 0 .. count − 1: V[k] <- f k`, in that order (R198). -/
def loadFirst (v : Vector Byte 16) (f : Nat → Byte) : Nat → Vector Byte 16
  | 0 => v
  | k + 1 => (loadFirst v f k).setIfInBounds k (f k)

/-- The register file with V0..V`last` loaded from f, the others as they were (R198). -/
def State.loadV (s : State) (last : Reg) (f : Nat → Byte) : State :=
  { s with v := loadFirst s.v f (last.val + 1) }

/-- `I <- w` (R27). -/
def State.setI (s : State) (w : Word) : State := { s with i := w }

/-- `DT <- b` (R30). -/
def State.setDt (s : State) (b : Byte) : State := { s with dt := b }

/-- `ST <- b` (R30). -/
def State.setSt (s : State) (b : Byte) : State := { s with st := b }

/-- Memory replaced by the given one. -/
def State.setMem (s : State) (m : Memory) : State := { s with mem := m }

/-! ### Program counter (R25, R106) -/

/-- `next PC <- w`. -/
def State.setPc (s : State) (w : Word) : State := { s with pc := w }

/-- `next PC <- PC + 2`. -/
def State.advance (s : State) : State := s.setPc (s.pc + 2)

/-- `SkipIf(c)`: PC + 4 if the condition holds, else PC + 2 (R130). -/
def State.skipIf (s : State) (c : Bool) : State := s.setPc (if c then s.pc + 4 else s.pc + 2)

/-! ### The call stack (R28) -/

/-- `S[SP] <- w; SP <- SP + 1` (R123), for SP < 16. -/
def State.push (s : State) (w : Word) : State :=
  { s with stack := s.stack.setIfInBounds s.sp.val w, sp := s.sp + 1 }

/-- `S[SP − 1]` (R121), for SP > 0. -/
def State.top (s : State) : Word := s.stack[s.sp.val - 1]?.getD 0

/-- `SP <- SP − 1` (R121), for SP > 0; the entry is not cleared. -/
def State.dropTop (s : State) : State := { s with sp := s.sp - 1 }

/-- `Call`'s check: StackOverflow when SP = 16 (R123). -/
def State.overflowFault (s : State) : Option Fault :=
  if s.sp.val = Config.stackDepth then some .stackOverflow else none

/-- `Return`'s check: StackUnderflow when SP = 0 (R121). -/
def State.underflowFault (s : State) : Option Fault :=
  if s.sp.val = 0 then some .stackUnderflow else none

/-! ### The pixel grid (R32) -/

/-- `G[x][y]`. -/
def Grid.pixel (g : Grid) (x : Fin 64) (y : Fin 32) : Bool := g[x.val][y.val]

/-- `G[x][y] <- G[x][y] ^ 1`. -/
def Grid.toggle (g : Grid) (x : Fin 64) (y : Fin 32) : Grid :=
  g.set x.val (g[x.val].set y.val (!Grid.pixel g x y) y.isLt) x.isLt

/-- All 2048 pixels clear (R175). -/
def Grid.blank : Grid := Vector.replicate 64 (Vector.replicate 32 false)

/-- `x mod 64`. -/
def wrapX (x : Nat) : Fin 64 := ⟨x % Config.dispW, Nat.mod_lt x (by decide)⟩

/-- `y mod 32`. -/
def wrapY (y : Nat) : Fin 32 := ⟨y % Config.dispH, Nat.mod_lt y (by decide)⟩

/-- What the loop of `Draw` carries: the grid, and whether a set pixel has been turned off (R176). -/
structure DrawAcc where
  grid : Grid
  collision : Bool
  deriving DecidableEq, Repr

/-- One pixel of `Draw` (R176): note a collision if it is set, then toggle it. -/
def DrawAcc.hit (a : DrawAcc) (x : Fin 64) (y : Fin 32) : DrawAcc :=
  { grid := Grid.toggle a.grid x y, collision := a.collision || Grid.pixel a.grid x y }

/-- One row of `Draw` (R176): columns 0 to `cols` − 1 of byte b from column x0, most-significant bit
first, on grid row y. -/
def DrawAcc.row (b : Byte) (x0 : Nat) (y : Fin 32) : Nat → DrawAcc → DrawAcc
  | 0, a => a
  | col + 1, a =>
    let a' := DrawAcc.row b x0 y col a
    if b.getLsbD (7 - col) then a'.hit (wrapX (x0 + col)) y else a'

/-- The rows of `Draw` (R176): row r reads M[base + r] and draws it on grid row (y0 + r) mod 32, for
r = 0 to `rows` − 1 in that order. -/
def DrawAcc.rows (m : Memory) (base x0 y0 : Nat) : Nat → DrawAcc → DrawAcc
  | 0, a => a
  | r + 1, a =>
    DrawAcc.row (Memory.read m (base + r)) x0 (wrapY (y0 + r)) 8 (DrawAcc.rows m base x0 y0 r a)

/-- The grid replaced and `DIRTY <- 1`, as every completed clear and draw does (R34). -/
def State.setGrid (s : State) (g : Grid) : State := { s with grid := g, dirty := true }

/-! ### Keys (R33) -/

/-- `K[v]`; false outside the 16 keys, which no instruction asks (R135, R136). -/
def State.keyDown (s : State) (v : Nat) : Bool := s.keys[v]?.getD false

/-- The least k with K[k] pressed, if any (R189; D10). -/
def State.leastKey (s : State) : Option Key := (List.finRange 16).find? fun k => s.keys[k.val]

/-! ### The random source (R36, R170) -/

/-- `Rnd()`: the next byte of the injected source; where the host has supplied none, a free value
(log entry 2). -/
def State.rndByte (s : State) : Byte :=
  match s.rngInput with
  | b :: _ => b
  | [] => Config.freeRandomByte s.rngDraws

/-- The source after one call of `Rnd()`: that byte is used up. -/
def State.rndNext (s : State) : State :=
  match s.rngInput with
  | _ :: bs => { s with rngInput := bs }
  | [] => { s with rngDraws := s.rngDraws + 1 }

end Sys2Proof.Machine
end

