-- ==== Sys2Proof/Machine/Operands.lean ====
section
/-! DEFINITION. The operand forms of the instruction set (30_encoding.md R72; 48_bulk_memory.md R195):
zero extension, register-indirect addresses through I, the key index in V[X], the glyph of V[X], the
decimal digits of V[X], and the bytes V0..VX. X, Y and NN are used as they are: `State.readV` and the
immediate itself. -/

namespace Sys2Proof.Machine

/-- `zext_16(NNN)` (R72). -/
def addrOperand (nnn : Addr12) : Word := nnn.zeroExtend 16

/-- `zext_16(V[X])` (R124, R162). -/
def State.wideV (s : State) (x : Reg) : Word := (s.readV x).zeroExtend 16

/-- I as the exact integer address of a dereference: byte k is at this + k, with no wrap (R195, R56). -/
def State.base (s : State) : Nat := s.i.toNat

/-- The check of the key index V[X]: OutOfBounds(Key(v)) when v > 0xF (R135, R136; D9). -/
def keyFault (v : Byte) : Option Fault :=
  if v.toNat > 0xF then some (.outOfBounds (.key v)) else none

/-- The glyph address of FX29: `FONT_BASE + 5 × (V[X] & 0xF)`, the low nibble only (R163). -/
def glyphOperand (v : Byte) : Word := BitVec.ofNat 16 (Font.glyphAddr (v.toNat % 16))

/-- The bytes of FX33: hundreds, tens and ones of v (R196). -/
def bcdBytes (v : Byte) : List Byte :=
  [BitVec.ofNat 8 (v.toNat / 100), BitVec.ofNat 8 (v.toNat / 10 % 10), BitVec.ofNat 8 (v.toNat % 10)]

/-- How many bytes FX33 stores (R196). -/
def bcdLength : Nat := 3

/-- How many bytes FX55 and FX65 move: V0..VX inclusive (R197, R198). -/
def blockLength (x : Reg) : Nat := x.val + 1

/-- The bytes V0..VX in order (R197). -/
def State.regBytes (s : State) (x : Reg) : List Byte := s.v.toList.take (blockLength x)

end Sys2Proof.Machine
end

