-- ==== Sys2Proof/Machine/BulkMemory.lean ====
section
/-! DEFINITION. The BCD store and the block store and load (48_bulk_memory.md R195–R199). The whole range
is checked before the first access; I is unchanged (D11). -/

namespace Sys2Proof.Machine

/-- FX33 `StoreBCD` (R196). -/
def execStoreBCD (x : Reg) (s : State) : Host.Outcome State Fault Refusal :=
  guarded (boundsFault s.base bcdLength)
    (s.setMem (Memory.writeBytes s.mem s.base (bcdBytes (s.readV x)))).advance

/-- FX55 `StoreRegisters` (R197). -/
def execStoreRegisters (x : Reg) (s : State) : Host.Outcome State Fault Refusal :=
  guarded (boundsFault s.base (blockLength x))
    (s.setMem (Memory.writeBytes s.mem s.base (s.regBytes x))).advance

/-- FX65 `LoadRegisters` (R198). -/
def execLoadRegisters (x : Reg) (s : State) : Host.Outcome State Fault Refusal :=
  guarded (boundsFault s.base (blockLength x))
    (s.loadV x fun k => Memory.read s.mem (s.base + k)).advance

end Sys2Proof.Machine
end

