-- ==== Sys2Proof/Machine/ControlFlow.lean ====
section
/-! DEFINITION. Return, Jump, Call, JumpPlusZero (41_control_flow.md R120–R125). -/

namespace Sys2Proof.Machine

/-- 00EE `Return` (R121): PC takes the popped entry as it is. -/
def execRet (s : State) : Host.Outcome State Fault Refusal :=
  guarded s.underflowFault (s.dropTop.setPc s.top)

/-- 1NNN `Jump` (R122). -/
def execJump (nnn : Addr12) (s : State) : Host.Outcome State Fault Refusal :=
  .next (s.setPc (addrOperand nnn))

/-- 2NNN `Call` (R123): pushes the address after the call. -/
def execCall (nnn : Addr12) (s : State) : Host.Outcome State Fault Refusal :=
  guarded s.overflowFault ((s.push (s.pc + 2)).setPc (addrOperand nnn))

/-- BNNN `JumpPlusZero` (R124): always V0. -/
def execJumpPlusZero (nnn : Addr12) (s : State) : Host.Outcome State Fault Refusal :=
  .next (s.setPc (addrOperand nnn + s.wideV 0))

end Sys2Proof.Machine
end

