-- ==== Sys2Proof/Machine/Flags.lean ====
section
/-! DEFINITION. The flag computations of 43_load_arith.md (R147–R151) and 46_display.md (R176), and the
writing of a flag to VF (10_state.md R23; R140: the flag is written before the result). -/

namespace Sys2Proof.Machine

/-- VF, "doubles as a carry/borrow/collision flag" (R23). -/
def vf : Reg := 15

/-- `V[0xF] <- (if c then 1 else 0)`. -/
def State.setFlag (s : State) (c : Bool) : State := s.writeV vf (if c then 1 else 0)

/-- Carry of 8XY4: the unsigned sum exceeds 255 (R147). -/
def carryFlag (a b : Byte) : Bool := decide (a.toNat + b.toNat > 255)

/-- Borrow flag of 8XY5 and 8XY7, true meaning no borrow: minuend ≥ subtrahend (R148, R150). -/
def noBorrowFlag (minuend subtrahend : Byte) : Bool := decide (minuend.toNat ≥ subtrahend.toNat)

/-- The bit 8XY6 shifts out: the original least-significant bit (R149). -/
def shiftRightFlag (a : Byte) : Bool := a.getLsbD 0

/-- The bit 8XYE shifts out: the original most-significant bit (R151). -/
def shiftLeftFlag (a : Byte) : Bool := a.getLsbD 7

end Sys2Proof.Machine
end

