-- ==== Sys2Proof/Machine/Display.lean ====
section
/-! DEFINITION. Clear and draw (46_display.md R175–R179). -/

namespace Sys2Proof.Machine

/-- 00E0 `ClearDisplay` (R175): every pixel 0, DIRTY 1, VF unchanged. -/
def execClearDisplay (s : State) : Host.Outcome State Fault Refusal :=
  .next (s.setGrid Grid.blank).advance

/-- The pixel loop of `Draw` from its start values: x0 = V[X], y0 = V[Y], the sprite at I, collision 0
(R176). -/
def State.drawn (s : State) (x y : Reg) (n : Nat) : DrawAcc :=
  DrawAcc.rows s.mem s.base (s.readV x).toNat (s.readV y).toNat n { grid := s.grid, collision := false }

/-- DXYN `Draw` (R176): bounds over the N sprite bytes (N = 0 passes, R178), then the grid, VF, DIRTY
and PC. -/
def execDraw (x y : Reg) (n : Nat) (s : State) : Host.Outcome State Fault Refusal :=
  guarded (boundsFault s.base n)
    (((s.setGrid (s.drawn x y n).grid).setFlag (s.drawn x y n).collision).advance)

end Sys2Proof.Machine
end

