-- ==== Sys2Proof/Machine/Index.lean ====
section
/-! DEFINITION. The three instructions that write I (44_index.md R160–R163). None accesses memory or
writes VF, and none faults. -/

namespace Sys2Proof.Machine

/-- ANNN `LoadI` (R161). -/
def execLoadI (nnn : Addr12) (s : State) : Host.Outcome State Fault Refusal :=
  .next (s.setI (addrOperand nnn)).advance

/-- FX1E `AddI` (R162): modulo 2^16 (D15), VF unchanged. -/
def execAddI (x : Reg) (s : State) : Host.Outcome State Fault Refusal :=
  .next (s.setI (s.i + s.wideV x)).advance

/-- FX29 `LoadSprite` (R163). -/
def execLoadSprite (x : Reg) (s : State) : Host.Outcome State Fault Refusal :=
  .next (s.setI (glyphOperand (s.readV x))).advance

end Sys2Proof.Machine
end

