-- ==== Sys2Proof/Machine/LoadArith.lean ====
section
/-! DEFINITION. Loads and arithmetic (43_load_arith.md R140–R152). Operands are the values at the start of
the step; where there is a flag it is written to VF first and the result to V[X] second, so that for
X = F the result stays (R140). -/

namespace Sys2Proof.Machine

/-- 6XNN `LoadByte` (R141). -/
def execLoadByte (x : Reg) (nn : Byte) (s : State) : Host.Outcome State Fault Refusal :=
  .next (s.writeV x nn).advance

/-- 7XNN `AddByte` (R142): wraps, no flag. -/
def execAddByte (x : Reg) (nn : Byte) (s : State) : Host.Outcome State Fault Refusal :=
  .next (s.writeV x (s.readV x + nn)).advance

/-- 8XY0 `Move` (R143). -/
def execMove (x y : Reg) (s : State) : Host.Outcome State Fault Refusal :=
  .next (s.writeV x (s.readV y)).advance

/-- 8XY1 `Or` (R144): VF is not reset. -/
def execOr (x y : Reg) (s : State) : Host.Outcome State Fault Refusal :=
  .next (s.writeV x (s.readV x ||| s.readV y)).advance

/-- 8XY2 `And` (R145): VF is not reset. -/
def execAnd (x y : Reg) (s : State) : Host.Outcome State Fault Refusal :=
  .next (s.writeV x (s.readV x &&& s.readV y)).advance

/-- 8XY3 `Xor` (R146): VF is not reset. -/
def execXor (x y : Reg) (s : State) : Host.Outcome State Fault Refusal :=
  .next (s.writeV x (s.readV x ^^^ s.readV y)).advance

/-- The shared shape of the five flag-writing instructions (R140): `V[0xF] <- flag`, then
`V[X] <- result`, then PC + 2. -/
def State.flagThenResult (s : State) (x : Reg) (flag : Bool) (result : Byte) : State :=
  ((s.setFlag flag).writeV x result).advance

/-- 8XY4 `AddReg` (R147). -/
def execAddReg (x y : Reg) (s : State) : Host.Outcome State Fault Refusal :=
  .next (s.flagThenResult x (carryFlag (s.readV x) (s.readV y)) (s.readV x + s.readV y))

/-- 8XY5 `Sub` (R148): VX − VY. -/
def execSub (x y : Reg) (s : State) : Host.Outcome State Fault Refusal :=
  .next (s.flagThenResult x (noBorrowFlag (s.readV x) (s.readV y)) (s.readV x - s.readV y))

/-- 8XY6 `ShiftRight` (R149): VX in place; Y has no effect (R82; D6). -/
def execShiftRight (x _y : Reg) (s : State) : Host.Outcome State Fault Refusal :=
  .next (s.flagThenResult x (shiftRightFlag (s.readV x)) (s.readV x >>> 1))

/-- 8XY7 `SubReverse` (R150): VY − VX. -/
def execSubReverse (x y : Reg) (s : State) : Host.Outcome State Fault Refusal :=
  .next (s.flagThenResult x (noBorrowFlag (s.readV y) (s.readV x)) (s.readV y - s.readV x))

/-- 8XYE `ShiftLeft` (R151): VX in place; Y has no effect (R82; D6). -/
def execShiftLeft (x _y : Reg) (s : State) : Host.Outcome State Fault Refusal :=
  .next (s.flagThenResult x (shiftLeftFlag (s.readV x)) (s.readV x <<< 1))

end Sys2Proof.Machine
end

