-- ==== Sys2Proof/Machine/Random.lean ====
section
/-! DEFINITION. The random instruction (45_random.md R170, R171). -/

namespace Sys2Proof.Machine

/-- CXNN `Random` (R171): `V[X] <- Rnd() & NN`, the source called exactly once (R170). -/
def execRandom (x : Reg) (nn : Byte) (s : State) : Host.Outcome State Fault Refusal :=
  .next (s.rndNext.writeV x (s.rndByte &&& nn)).advance

end Sys2Proof.Machine
end

