-- ==== Sys2Proof/Machine/Skip.lean ====
section
/-! DEFINITION. The six conditional skips (42_skip.md R130–R136). The skipped word is not fetched. -/

namespace Sys2Proof.Machine

/-- 3XNN `SkipEqByte` (R131). -/
def execSkipEqByte (x : Reg) (nn : Byte) (s : State) : Host.Outcome State Fault Refusal :=
  .next (s.skipIf (decide (s.readV x = nn)))

/-- 4XNN `SkipNeByte` (R132). -/
def execSkipNeByte (x : Reg) (nn : Byte) (s : State) : Host.Outcome State Fault Refusal :=
  .next (s.skipIf (decide (s.readV x ≠ nn)))

/-- 5XY0 `SkipEqReg` (R133). -/
def execSkipEqReg (x y : Reg) (s : State) : Host.Outcome State Fault Refusal :=
  .next (s.skipIf (decide (s.readV x = s.readV y)))

/-- 9XY0 `SkipNeReg` (R134). -/
def execSkipNeReg (x y : Reg) (s : State) : Host.Outcome State Fault Refusal :=
  .next (s.skipIf (decide (s.readV x ≠ s.readV y)))

/-- EX9E `SkipKeyPressed` (R135): the level of key V[X] at this step. -/
def execSkipKeyPressed (x : Reg) (s : State) : Host.Outcome State Fault Refusal :=
  guarded (keyFault (s.readV x)) (s.skipIf (s.keyDown (s.readV x).toNat))

/-- EXA1 `SkipKeyNotPressed` (R136). -/
def execSkipKeyNotPressed (x : Reg) (s : State) : Host.Outcome State Fault Refusal :=
  guarded (keyFault (s.readV x)) (s.skipIf (!s.keyDown (s.readV x).toNat))

end Sys2Proof.Machine
end

