-- ==== Sys2Proof/Machine/TimerKey.lean ====
section
/-! DEFINITION. The timer instructions and the key wait (47_timer_key.md R185–R189). -/

namespace Sys2Proof.Machine

/-- FX07 `LoadDelayTimer` (R186). -/
def execLoadDelayTimer (x : Reg) (s : State) : Host.Outcome State Fault Refusal :=
  .next (s.writeV x s.dt).advance

/-- FX15 `SetDelayTimer` (R187). -/
def execSetDelayTimer (x : Reg) (s : State) : Host.Outcome State Fault Refusal :=
  .next (s.setDt (s.readV x)).advance

/-- FX18 `SetSoundTimer` (R188). -/
def execSetSoundTimer (x : Reg) (s : State) : Host.Outcome State Fault Refusal :=
  .next (s.setSt (s.readV x)).advance

/-- FX0A `WaitForKeyPress` (R189): the least pressed key to V[X], or a stall in place, which is a
successful step that changes nothing (R108). -/
def execWaitForKeyPress (x : Reg) (s : State) : Host.Outcome State Fault Refusal :=
  match s.leastKey with
  | some k => .next (s.writeV x (BitVec.ofNat 8 k.val)).advance
  | none => .next s

end Sys2Proof.Machine
end

