-- ==== Sys2Proof/Machine/Cycle.lean ====
section
/-! DEFINITION. One execute step, the `EXEC` transaction (40_cycle.md R100–R110): fetch bound, fetch,
decode, execute. -/

namespace Sys2Proof.Machine

/-- The fetch's own check: `Bounds(PC, 2)` (R102). -/
def State.fetchFault (s : State) : Option Fault := boundsFault s.pc.toNat Config.insnBytes

/-- The opcode at PC, `M[PC] ++ M[PC+1]` (R101, R52). -/
def State.fetchWord (s : State) : Word := Memory.readWord s.mem s.pc.toNat

/-- `ExecStep` (R100), the checks in the order of R110. -/
def execStep (s : State) : Host.Outcome State Fault Refusal :=
  match s.fetchFault with
  | some f => raise f
  | none =>
    match decode s.fetchWord with
    | .decodeFailure w => raise (.decodeFailure w)
    | .instr i => exec i s

end Sys2Proof.Machine
end

