-- ==== Sys2Proof/Machine/Transactions.lean ====
section
/-! DEFINITION. The transaction-level interface (10_state.md R40–R47) beside `EXEC`: the timer tick and
its tone signals (60_exceptions.md R224–R226), keys, display, the random source, the loader
(70_reset_and_hazards.md R242, R243), and the host's schedule of them (40_cycle.md R112). -/

namespace Sys2Proof.Machine

/-! ### TICK -/

/-- What a tick responds (R226): `tone_active`, `tone_end`. -/
structure ToneResponse where
  toneActive : Bool
  toneEnd : Bool
  deriving DecidableEq, Repr

/-- A timer after one tick: one less, not below zero (R224). -/
def countDown (b : Byte) : Byte := if b = 0 then 0 else b - 1

/-- `Tick()`'s effect on the state: only DT and ST (R224). -/
def State.tick (s : State) : State := (s.setDt (countDown s.dt)).setSt (countDown s.st)

/-- `Tick()`'s response: active when ST ≠ 0 after the decrement, end when ST went from 1 to 0 (R226;
D19). -/
def State.tickResponse (s : State) : ToneResponse :=
  { toneActive := decide (countDown s.st ≠ 0), toneEnd := decide (s.st = 1) }

/-- `TONE`: the level ST ≠ 0, at any time (R47). -/
def State.tone (s : State) : Bool := decide (s.st ≠ 0)

/-! ### KEY, DISP_READ, DISP_ACK, RNG -/

/-- `KEY(k, p)` (R46). -/
def State.setKey (s : State) (k : Key) (pressed : Bool) : State :=
  { s with keys := s.keys.set k.val pressed k.isLt }

/-- `DISP_READ` returns G and DIRTY and changes nothing (R43). -/
def State.dispRead (s : State) : Grid × Bool := (s.grid, s.dirty)

/-- `DISP_ACK`: DIRTY <- 0 (R44). -/
def State.dispAck (s : State) : State := { s with dirty := false }

/-- `RNG` (R45): the injected source will return this byte after those it already holds, an order no rule gives
(DESIGN CHOICE, log entry 2). -/
def State.supplyByte (s : State) (b : Byte) : State := { s with rngInput := s.rngInput ++ [b] }

/-! ### LOAD and boot -/

/-- `LOAD(image)` (R47, R243): the image bytes at 0x200 on, or LoadTooLarge and nothing written. -/
def State.load (s : State) (image : List Byte) : Host.Outcome State Fault Refusal :=
  if image.length ≤ Config.progMax then .next (s.setMem (Memory.writeBytes s.mem Config.progStart image))
  else .refused (.loadTooLarge image.length)

/-- Boot (R242): reset, the font already in place, then the image. -/
def boot (image : List Byte) : Host.Outcome State Fault Refusal := State.reset.load image

/-! ### Fault codes (R210) -/

/-- The code of a fault an execute step raises (R210). -/
def faultCode : Fault → Nat
  | .decodeFailure _ => 1
  | .stackOverflow => 2
  | .stackUnderflow => 3
  | .outOfBounds _ => 4

/-- The code of a refusal that is one of R210's kinds: LoadTooLarge is 5. -/
def refusalCode : Refusal → Option Nat
  | .loadTooLarge _ => some 5
  | _ => none

/-! ### The schedule -/

/-- One transaction as one atomic step (R40). -/
def perform (t : Transaction) (s : State) : Host.Outcome State Fault Refusal :=
  match t with
  | .exec => execStep s
  | .tick => .next s.tick
  | .key k p => .next (s.setKey k p)
  | .dispRead => .next s
  | .dispAck => .next s.dispAck
  | .rng b => .next (s.supplyByte b)

/-- What the host gets back from a transaction. -/
inductive Response where
  /-- `EXEC` completed. -/
  | ok
  /-- `EXEC` faulted (R41). -/
  | fault (f : Fault)
  /-- `TICK` (R42). -/
  | tone (r : ToneResponse)
  /-- `DISP_READ` (R43). -/
  | display (g : Grid) (dirty : Bool)
  /-- A transaction that returns nothing: `KEY`, `DISP_ACK`, `RNG`. -/
  | none
  deriving DecidableEq, Repr

/-- The response of a transaction issued in state s (R41–R46). -/
def respond (t : Transaction) (s : State) : Response :=
  match t with
  | .exec =>
    match execStep s with
    | .fault f => .fault f
    | _ => .ok
  | .tick => .tone s.tickResponse
  | .dispRead => .display s.dispRead.1 s.dispRead.2
  | .key _ _ => .none
  | .dispAck => .none
  | .rng _ => .none

/-- The next step of the machine under its host: the first transaction of the schedule, or `EXEC` when
the schedule is empty (R40, R112; log entry 1). -/
def runNext (s : State) : Host.Outcome State Fault Refusal :=
  match s.schedule with
  | [] => execStep s
  | t :: ts => perform t { s with schedule := ts }

/-- The state with a word where the next execute step fetches: the two bytes at PC in memory order (R52),
and `EXEC` the next transaction. A PC at which nothing can be fetched (R102) is moved to 0x200. -/
def State.placeWord (s : State) (w : Word) : State :=
  let pc := if s.pc.toNat + 1 < Config.memSize then s.pc else BitVec.ofNat 16 Config.progStart
  { s with
    pc := pc
    mem := Memory.writeBytes s.mem pc.toNat [(bytesOfWord w).1, (bytesOfWord w).2]
    schedule := [] }

end Sys2Proof.Machine
end

