-- ==== Sys2Proof/Safety.lean ====
section
/-! DEFINITION. The terms claims are stated in: the invariant, reachable states, runs of instructions and of
transactions, and the spec's own tables of what each instruction writes, checks and does to PC
(10_state.md R23–R34, 20_memory.md R50, 60_exceptions.md R210), written from the rules and not from the
meanings. -/

namespace Sys2Proof

/-! ### What the rules say each instruction writes -/

/-- The destination register field X of the instructions that write V[X] (43–47, R140–R189). -/
def Instr.destX : Instr → Option Reg
  | .loadByte x _ | .addByte x _ | .move x _ | .or x _ | .and x _ | .xor x _ | .addReg x _ | .sub x _
  | .shiftRight x _ | .subReverse x _ | .shiftLeft x _ | .random x _ | .loadDelayTimer x
  | .waitForKeyPress x => some x
  | _ => none

/-- "The instructions that write VF as a flag, whatever their X field, are exactly" these six (R23). -/
def Instr.writesFlag : Instr → Bool
  | .addReg _ _ | .sub _ _ | .shiftRight _ _ | .subReverse _ _ | .shiftLeft _ _ | .draw _ _ _ => true
  | _ => false

/-- The registers an instruction may write: its destination, VF as the flag, V0..VX for the block load
(R22, R23, R198). -/
def Instr.mayWriteV (i : Instr) (r : Reg) : Prop :=
  i.destX = some r ∨ (i.writesFlag = true ∧ r = 15) ∨ (∃ x, i = .loadRegisters x ∧ r.val ≤ x.val)

/-- I "is written by `LoadI` ANNN, `AddI` FX1E and `LoadSprite` FX29" (R27). -/
def Instr.writesI : Instr → Bool
  | .loadI _ | .addI _ | .loadSprite _ => true
  | _ => false

/-- Only `Call` and `Return` read or write S or SP (R28). -/
def Instr.usesStack : Instr → Bool
  | .call _ | .ret => true
  | _ => false

/-- The grid "is written only by `ClearDisplay` 00E0 … and `Draw` DXYN" (R32). -/
def Instr.writesGrid : Instr → Bool
  | .clearDisplay | .draw _ _ _ => true
  | _ => false

/-- K "is read by `SkipKeyPressed` EX9E, `SkipKeyNotPressed` EXA1 and `WaitForKeyPress` FX0A" (R33). -/
def Instr.readsKeys : Instr → Bool
  | .skipKeyPressed _ | .skipKeyNotPressed _ | .waitForKeyPress _ => true
  | _ => false

/-- DT "is written by `SetDelayTimer` FX15" (R30). -/
def Instr.setsDt : Instr → Bool
  | .setDelayTimer _ => true
  | _ => false

/-- ST "is written by `SetSoundTimer` FX18" (R30). -/
def Instr.setsSt : Instr → Bool
  | .setSoundTimer _ => true
  | _ => false

/-- Only `Random` calls the random source (R170). -/
def Instr.drawsRandom : Instr → Bool
  | .random _ _ => true
  | _ => false

/-- How many bytes from I on an instruction stores: 3 for `StoreBCD`, X + 1 for `StoreRegisters`, none for
any other (R50). -/
def Instr.storeCount : Instr → Nat
  | .storeBCD _ => 3
  | .storeRegisters x => x.val + 1
  | _ => 0

end Sys2Proof

namespace Sys2Proof.Machine

/-! ### The invariant and the runs -/

/-- What every step keeps: memory is in canonical form inside 0x000–0xFFF (R50); PC never passes 0x10FE, the
largest jump target (R124, R26); no saved return address passes 0x1000 (R123). -/
structure State.Inv (s : State) : Prop where
  memory : Memory.wf s.mem = true
  pc : s.pc.toNat ≤ 0x10FE
  stack : ∀ j : Fin 16, s.stack[j.val].toNat ≤ 0x1000

/-- The states of a run: a booted image under any schedule and any random source (R242, R112), then steps. -/
inductive Reachable : State → Prop where
  | booted (image : List Byte) (s : State) (schedule : List Transaction) (rng : List Byte) (draws : Nat) :
      boot image = .next s → Reachable { s with schedule := schedule, rngInput := rng, rngDraws := draws }
  | stepped (s t : State) : Reachable s → step s = .next t → Reachable t

/-- Instructions executed one after another, stopping at the first fault. -/
def runInstrs : List Instr → State → Host.Outcome State Fault Refusal
  | [], s => .next s
  | i :: is, s =>
    match exec i s with
    | .next t => runInstrs is t
    | .fault f => .fault f
    | .refused r => .refused r

/-- Transactions performed one after another, stopping at the first fault. -/
def performAll : List Transaction → State → Host.Outcome State Fault Refusal
  | [], s => .next s
  | t :: ts, s =>
    match perform t s with
    | .next s' => performAll ts s'
    | .fault f => .fault f
    | .refused r => .refused r

/-- k ticks (R225). -/
def ticks : Nat → State → State
  | 0, s => s
  | k + 1, s => ticks k s.tick

/-- n execute steps, none of whose instructions is `SetDelayTimer` or `SetSoundTimer`, with no tick between them
(R109). -/
inductive StepsWithoutTimerWrites : Nat → State → State → Prop where
  | none (s : State) : StepsWithoutTimerWrites 0 s s
  | more (n : Nat) (s t u : State) : execStep s = .next t →
      (∀ i, decode s.fetchWord = .instr i → i.setsDt = false ∧ i.setsSt = false) →
      StepsWithoutTimerWrites n t u → StepsWithoutTimerWrites (n + 1) s u

/-- An outcome with its next state changed. -/
def mapNext (f : State → State) : Host.Outcome State Fault Refusal → Host.Outcome State Fault Refusal
  | .next t => .next (f t)
  | .fault e => .fault e
  | .refused r => .refused r

/-- The second end of a run (R113): PC addresses a word `1NNN` with NNN = PC. -/
def State.atSelfJump (s : State) : Prop :=
  s.pc.toNat ≤ 0xFFE ∧ decode s.fetchWord = .instr (.jump (s.pc.truncate 12))

/-- A step that stops: the first end of a run (R113). -/
def State.faults (s : State) (f : Fault) : Prop := step s = .fault f

/-- A run is safe from here when no state it reaches faults. -/
def State.safeFor : Nat → State → Prop
  | 0, _ => True
  | k + 1, s => ∃ t, step s = .next t ∧ State.safeFor k t

/-- The next PC, row by row of the table of R25. -/
def nextPcByTable (i : Instr) (s : State) : Nat :=
  match i with
  | .jump nnn | .call nnn => nnn.toNat
  | .ret => if h : 0 < s.sp.val then (s.stack[s.sp.val - 1]'(by omega)).toNat else 0
  | .jumpPlusZero nnn => (nnn.toNat + (s.readV 0).toNat) % 2 ^ 16
  | .skipEqByte x nn => if s.readV x = nn then s.pc.toNat + 4 else s.pc.toNat + 2
  | .skipNeByte x nn => if s.readV x ≠ nn then s.pc.toNat + 4 else s.pc.toNat + 2
  | .skipEqReg x y => if s.readV x = s.readV y then s.pc.toNat + 4 else s.pc.toNat + 2
  | .skipNeReg x y => if s.readV x ≠ s.readV y then s.pc.toNat + 4 else s.pc.toNat + 2
  | .skipKeyPressed x => if s.keyDown (s.readV x).toNat = true then s.pc.toNat + 4 else s.pc.toNat + 2
  | .skipKeyNotPressed x => if s.keyDown (s.readV x).toNat = false then s.pc.toNat + 4 else s.pc.toNat + 2
  | .waitForKeyPress _ => if ∃ k : Fin 16, s.keys[k.val] = true then s.pc.toNat + 2 else s.pc.toNat
  | _ => s.pc.toNat + 2

/-- An instruction's one check, as the table of R210 and the rules it names give it; none for the 26
instructions that complete on every state. -/
def checkByTable (i : Instr) (s : State) : Option Fault :=
  match i with
  | .call _ => if s.sp.val = 16 then some .stackOverflow else none
  | .ret => if s.sp.val = 0 then some .stackUnderflow else none
  | .draw _ _ n =>
    if n = 0 ∨ s.i.toNat + n ≤ 4096 then none else some (.outOfBounds (.mem (max s.i.toNat 4096)))
  | .storeBCD _ =>
    if s.i.toNat + 3 ≤ 4096 then none else some (.outOfBounds (.mem (max s.i.toNat 4096)))
  | .storeRegisters x | .loadRegisters x =>
    if s.i.toNat + x.val + 1 ≤ 4096 then none else some (.outOfBounds (.mem (max s.i.toNat 4096)))
  | .skipKeyPressed x | .skipKeyNotPressed x =>
    if (s.readV x).toNat ≤ 15 then none else some (.outOfBounds (.key (s.readV x)))
  | _ => none

/-! ### The sprite as a set (R177) -/

/-- The grid cells the sprite's set bits address: row r of N and column c of 8, bit 7 − c of M[I + r],
at ((V[X] + c) mod 64, (V[Y] + r) mod 32) (R176, R177). -/
def spriteCovers (s : State) (x y : Reg) (n : Nat) (cx : Fin 64) (cy : Fin 32) : Prop :=
  ∃ r < n, ∃ c < 8, (Memory.read s.mem (s.i.toNat + r)).getLsbD (7 - c) = true ∧
    cx.val = ((s.readV x).toNat + c) % 64 ∧ cy.val = ((s.readV y).toNat + r) % 32

/-- The table of R79: the words that decode to nothing, family by family. -/
def failsByTable (w : Nat) : Prop :=
  (w / 4096 = 0x0 ∧ w ≠ 0x00E0 ∧ w ≠ 0x00EE) ∨
  (w / 4096 = 0x5 ∧ w % 16 ≠ 0) ∨
  (w / 4096 = 0x8 ∧ w % 16 ∈ [0x8, 0x9, 0xA, 0xB, 0xC, 0xD, 0xF]) ∨
  (w / 4096 = 0x9 ∧ w % 16 ≠ 0) ∨
  (w / 4096 = 0xE ∧ w % 256 ∉ [0x9E, 0xA1]) ∨
  (w / 4096 = 0xF ∧ w % 256 ∉ [0x07, 0x0A, 0x15, 0x18, 0x1E, 0x29, 0x33, 0x55, 0x65])

end Sys2Proof.Machine
end

