-- ==== Sys2Proof/Certificates/Slice0/Obligations.lean ====
section
/-! DEFINITION. The statements for the provers, from the numbered rules of spec/. Each docstring names the rule
and says where a clause is the spec's own decision (D<n> of 92_eei_decisions.md) or the model's choice (log
entry n). -/

open Sys2Proof Sys2Proof.Machine

/-! ### Encoding -/

/-- Every well-formed instruction is what its own opcode decodes to, with every operand (R71, R77, R78; the
patterns are D4). -/
def Obligations.DecodeOfEncode : Prop :=
  ∀ i : Instr, i.WellFormed → decode (encode i) = .instr i

/-- A word that decodes to an instruction is that instruction's opcode, so no bit of it is dropped, the unused Y
of the shifts included (R78, R82). -/
def Obligations.EncodeOfDecode : Prop :=
  ∀ (w : Word) (i : Instr), decode w = .instr i → i.WellFormed ∧ encode i = w

/-- Every word decodes to an instruction of a row that covers it, or to DecodeFailure carrying that word, the
second exactly when no row of the map covers it (R73, R79). -/
def Obligations.DecodeFailsExactlyOffTheMap : Prop :=
  ∀ w : Word,
    (decode w = .decodeFailure w ∨
      ∃ i, decode w = .instr i ∧ i.row ∈ opcodeMap ∧ i.row.covers w = true) ∧
    (decode w = .decodeFailure w ↔ ∀ r ∈ opcodeMap, r.covers w = false)

/-- The failing words are those of the family table (R79, R75, R74; D5). -/
def Obligations.DecodeFailsByFamilyTable : Prop :=
  ∀ w : Word, decode w = .decodeFailure w ↔ failsByTable w.toNat

/-- No word matches two rows of the map (R77). -/
def Obligations.OpcodeRowsDisjoint : Prop :=
  ∀ (w : Word) (r r' : OpcodeRow), r ∈ opcodeMap → r' ∈ opcodeMap →
    r.covers w = true → r'.covers w = true → r = r'

/-- Words of the spec's own examples, one or more a family, decode to the instruction they stand for; the failing
words of 95_test_vectors.md L2.9 fail (patterns: D4). -/
def Obligations.SpecWordsDecode : Prop :=
  decode 0x00E0 = .instr .clearDisplay ∧ decode 0x00EE = .instr .ret ∧
  decode 0x1234 = .instr (.jump 0x234) ∧ decode 0x3342 = .instr (.skipEqByte 3 0x42) ∧
  decode 0x5120 = .instr (.skipEqReg 1 2) ∧ decode 0x6A2B = .instr (.loadByte 0xA 0x2B) ∧
  decode 0x8014 = .instr (.addReg 0 1) ∧ decode 0x801E = .instr (.shiftLeft 0 1) ∧
  decode 0xA2F0 = .instr (.loadI 0x2F0) ∧ decode 0xC30F = .instr (.random 3 0x0F) ∧
  decode 0xD123 = .instr (.draw 1 2 3) ∧ decode 0xE5A1 = .instr (.skipKeyNotPressed 5) ∧
  decode 0xF30A = .instr (.waitForKeyPress 3) ∧ decode 0xF265 = .instr (.loadRegisters 2) ∧
  decode 0x0123 = .decodeFailure 0x0123 ∧ decode 0x01E0 = .decodeFailure 0x01E0 ∧
  decode 0x5AB7 = .decodeFailure 0x5AB7 ∧ decode 0x8ABC = .decodeFailure 0x8ABC ∧
  decode 0xE000 = .decodeFailure 0xE000 ∧ decode 0xF0FF = .decodeFailure 0xF0FF

/-! ### The step -/

/-- A PC whose two bytes are not both in memory faults at the fetch with the lowest address outside, and whatever
executes stands at PC ≤ 0xFFE (R102; D3, D26). -/
def Obligations.FetchOutsideMemoryFaults : Prop :=
  ∀ s : State,
    (0xFFF ≤ s.pc.toNat → execStep s = .fault (.outOfBounds (.mem (max s.pc.toNat 0x1000)))) ∧
    (∀ t, execStep s = .next t → s.pc.toNat ≤ 0xFFE)

/-- When the two bytes at PC, the first the high one (R52, D1), decode to an instruction, the step is `exec` of
that instruction (R100), whether the host's EXEC is the schedule's default or its first entry (log entry 1). -/
def Obligations.StepExecutesDecodedInstruction : Prop :=
  ∀ (s : State) (i : Instr), s.pc.toNat ≤ 0xFFE →
    decode (BitVec.ofNat 16
      ((Memory.read s.mem s.pc.toNat).toNat * 256 + (Memory.read s.mem (s.pc.toNat + 1)).toNat)) = .instr i →
    i.WellFormed ∧
    (s.schedule = [] → step s = exec i s) ∧
    (∀ ts, s.schedule = .exec :: ts → step s = exec i { s with schedule := ts })

/-- A fetched word that decodes to nothing faults with that word; the fault is the whole outcome, so nothing is
skipped and PC does not move (R103). -/
def Obligations.UndecodableWordFaults : Prop :=
  ∀ (s : State) (w : Word), s.pc.toNat ≤ 0xFFE → decode s.fetchWord = .decodeFailure w →
    execStep s = .fault (.decodeFailure s.fetchWord)

/-- Each transaction of the schedule is one step, in order, with its own effect (R40, R112; D20, D23). Two things are the
model's choice: that the schedule stands in State (log entry 1), and the `RNG` clause, which appends the supplied byte
to the bytes not yet used, first in first out (log entry 2; R45 says only that a byte is supplied and consumed by
`Random`). -/
def Obligations.ScheduleIssuesTransactions : Prop :=
  ∀ (s : State) (ts : List Transaction) (k : Key) (p : Bool) (b : Byte),
    (s.schedule = .tick :: ts → step s = .next ({ s with schedule := ts } : State).tick) ∧
    (s.schedule = .key k p :: ts → step s = .next (({ s with schedule := ts } : State).setKey k p)) ∧
    (s.schedule = .dispRead :: ts → step s = .next { s with schedule := ts }) ∧
    (s.schedule = .dispAck :: ts → step s = .next { s with schedule := ts, dirty := false }) ∧
    (s.schedule = .rng b :: ts → step s = .next { s with schedule := ts, rngInput := s.rngInput ++ [b] }) ∧
    (s.schedule = .exec :: ts → step s = execStep { s with schedule := ts }) ∧
    (s.schedule = [] → step s = execStep s)

/-- The state `withFetchWord` makes runs exactly that word next (the model's placement of a program, log
entry 4). -/
def Obligations.PlacedWordRunsNext : Prop :=
  ∀ (s : State) (w : Word), Memory.wf s.mem = true →
    (∀ i, decode w = .instr i →
      step (s.withFetchWord 16 w.toNat) = exec i (s.withFetchWord 16 w.toNat)) ∧
    (∀ w', decode w = .decodeFailure w' → step (s.withFetchWord 16 w.toNat) = .fault (.decodeFailure w))

/-! ### Faults -/

/-- An instruction faults exactly with its one check's fault, and otherwise completes; the 26 instructions with no
check complete on every state (R210, R110; D9, D26). -/
def Obligations.CompletesOrFaultsByCheck : Prop :=
  ∀ (i : Instr) (s : State),
    (∀ f, checkByTable i s = some f → exec i s = .fault f) ∧
    (checkByTable i s = none → ∃ t, exec i s = .next t)

/-- After a faulting execute step, any number of other transactions leaves the next execute step with the same
fault (R111). -/
def Obligations.FaultPersists : Prop :=
  ∀ (s : State) (f : Fault) (ts : List Transaction), execStep s = .fault f →
    (∀ t ∈ ts, t ≠ .exec) → ∃ s', performAll ts s = .next s' ∧ execStep s' = .fault f

/-! ### Rules over all instructions -/

/-- Every instruction that stands where it can be fetched sets PC by the table of R25. -/
def Obligations.NextPcFollowsTable : Prop :=
  ∀ (i : Instr) (s t : State), s.pc.toNat ≤ 0xFFE → exec i s = .next t →
    t.pc.toNat = nextPcByTable i s

/-- A register that is neither the destination, nor VF as a flag, nor of a loaded block, keeps its value
(R22, R23, R198). -/
def Obligations.RegistersFrame : Prop :=
  ∀ (i : Instr) (s t : State) (r : Reg), exec i s = .next t → ¬ i.mayWriteV r →
    t.readV r = s.readV r

/-- I, the stack and the timers move only under the instructions the rules name (R27, R28, R30). -/
def Obligations.SpecialRegistersFrame : Prop :=
  ∀ (i : Instr) (s t : State), exec i s = .next t →
    (i.writesI = false → t.i = s.i) ∧
    (i.usesStack = false → t.stack = s.stack ∧ t.sp = s.sp) ∧
    (i.setsDt = false → t.dt = s.dt) ∧
    (i.setsSt = false → t.st = s.st)

/-- Only clear and draw touch the grid and DIRTY, and each that completes sets DIRTY (R32, R34; D24). -/
def Obligations.DisplayFrame : Prop :=
  ∀ (i : Instr) (s t : State), exec i s = .next t →
    (i.writesGrid = false → t.grid = s.grid ∧ t.dirty = s.dirty) ∧
    (i.writesGrid = true → t.dirty = true)

/-- No instruction writes K, and only the three key instructions depend on it: with other keys pressed any other
instruction does the same (R33). -/
def Obligations.KeysReadOnly : Prop :=
  (∀ (i : Instr) (s t : State), exec i s = .next t → t.keys = s.keys) ∧
  (∀ (i : Instr) (s : State) (k : Vector Bool 16), i.readsKeys = false →
    exec i { s with keys := k } = mapNext (fun t => { t with keys := k }) (exec i s))

/-- DIRTY and ST are read by no instruction, and S and SP by `Call` and `Return` only: with another value there,
an instruction does the same (R34, R30, R28). -/
def Obligations.UnreadState : Prop :=
  ∀ (i : Instr) (s : State) (d : Bool) (b : Byte) (st : Vector Word 16) (sp : Fin 17),
    exec i { s with dirty := d } =
      mapNext (fun t => if i.writesGrid = true then t else { t with dirty := d }) (exec i s) ∧
    exec i { s with st := b } =
      mapNext (fun t => if i.setsSt = true then t else { t with st := b }) (exec i s) ∧
    (i.usesStack = false → exec i { s with stack := st, sp := sp } =
      mapNext (fun t => { t with stack := st, sp := sp }) (exec i s))

/-- Every byte of memory outside the bytes an instruction stores keeps its value; the stored bytes are the
`storeCount` bytes from I on, which is all of them for `StoreBCD` and `StoreRegisters` and none for any other
(R50, R195). -/
def Obligations.MemoryFrame : Prop :=
  ∀ (i : Instr) (s t : State) (a : Nat), exec i s = .next t →
    (a < s.base ∨ s.base + i.storeCount ≤ a) → Memory.read t.mem a = Memory.read s.mem a

/-- No instruction changes the host's schedule, and only `Random` calls the random source (R170; log entries 1,
2). -/
def Obligations.HostSideFrame : Prop :=
  ∀ (i : Instr) (s t : State), exec i s = .next t →
    t.schedule = s.schedule ∧
    (i.drawsRandom = false → t.rngInput = s.rngInput ∧ t.rngDraws = s.rngDraws)

/-! ### Control flow and skips -/

/-- `Jump` (R122): PC takes NNN and nothing else moves; a jump to itself changes nothing; a target 0xFFF faults at
the next fetch. -/
def Obligations.JumpSetsPc : Prop :=
  ∀ (nnn : Addr12) (s : State),
    exec (.jump nnn) s = .next { s with pc := BitVec.ofNat 16 nnn.toNat } ∧
    (nnn.toNat = s.pc.toNat → exec (.jump nnn) s = .next s) ∧
    (nnn = 0xFFF → ∀ t, exec (.jump nnn) s = .next t → execStep t = .fault (.outOfBounds (.mem 0x1000)))

/-- `Call` (R123): below depth 16 it pushes the address after the call and jumps; at depth 16 it overflows. -/
def Obligations.CallPushesReturnAddress : Prop :=
  ∀ (nnn : Addr12) (s : State),
    (∀ h : s.sp.val < 16, ∃ t, exec (.call nnn) s = .next t ∧ t.stack[s.sp.val] = s.pc + 2 ∧
      (∀ j : Fin 16, j.val ≠ s.sp.val → t.stack[j.val] = s.stack[j.val]) ∧
      t.sp.val = s.sp.val + 1 ∧ t.pc.toNat = nnn.toNat ∧
      t = { s with stack := t.stack, sp := t.sp, pc := t.pc }) ∧
    (s.sp.val = 16 → exec (.call nnn) s = .fault .stackOverflow)

/-- `Return` (R121): above depth 0 it pops the last entry into PC as it is, leaving the entry in place; at depth 0
it underflows; a popped value of 0xFFF or more faults at the next fetch. -/
def Obligations.ReturnPopsLastEntry : Prop :=
  ∀ s : State,
    (∀ h : 0 < s.sp.val, ∃ t, exec .ret s = .next t ∧ t.pc = s.stack[s.sp.val - 1] ∧
      t.sp.val = s.sp.val - 1 ∧ t = { s with sp := t.sp, pc := t.pc } ∧
      (0xFFF ≤ t.pc.toNat → execStep t = .fault (.outOfBounds (.mem (max t.pc.toNat 0x1000))))) ∧
    (s.sp.val = 0 → exec .ret s = .fault .stackUnderflow)

/-- `JumpPlusZero` (R124): PC takes NNN + V0, which never reaches 2^16; nothing else moves. -/
def Obligations.JumpPlusZeroAddsV0 : Prop :=
  ∀ (nnn : Addr12) (s : State), ∃ t, exec (.jumpPlusZero nnn) s = .next t ∧
    t.pc.toNat = nnn.toNat + (s.readV 0).toNat ∧ t = { s with pc := t.pc }

/-- The four comparing skips (R131–R134): PC + 4 when the comparison holds, PC + 2 when not, nothing else. -/
def Obligations.ComparingSkips : Prop :=
  ∀ (x y : Reg) (nn : Byte) (s : State),
    exec (.skipEqByte x nn) s = .next { s with pc := if s.readV x = nn then s.pc + 4 else s.pc + 2 } ∧
    exec (.skipNeByte x nn) s = .next { s with pc := if s.readV x ≠ nn then s.pc + 4 else s.pc + 2 } ∧
    exec (.skipEqReg x y) s = .next { s with pc := if s.readV x = s.readV y then s.pc + 4 else s.pc + 2 } ∧
    exec (.skipNeReg x y) s = .next { s with pc := if s.readV x ≠ s.readV y then s.pc + 4 else s.pc + 2 }

/-- The two key skips (R135, R136; D8): on a key index of at most 0xF they skip on the level of that key; above it
they fault with the index (D9). -/
def Obligations.KeySkips : Prop :=
  ∀ (x : Reg) (s : State),
    (∀ h : (s.readV x).toNat < 16,
      exec (.skipKeyPressed x) s =
        .next { s with pc := if s.keys[(s.readV x).toNat] = true then s.pc + 4 else s.pc + 2 } ∧
      exec (.skipKeyNotPressed x) s =
        .next { s with pc := if s.keys[(s.readV x).toNat] = false then s.pc + 4 else s.pc + 2 }) ∧
    (16 ≤ (s.readV x).toNat →
      exec (.skipKeyPressed x) s = .fault (.outOfBounds (.key (s.readV x))) ∧
      exec (.skipKeyNotPressed x) s = .fault (.outOfBounds (.key (s.readV x))))

/-! ### Loads and arithmetic -/

/-- `LoadByte`, `AddByte`, `Move` (R141–R143): the destination takes the byte, the sum modulo 256 or the other
register; no flag, VF included; PC + 2; nothing else. -/
def Obligations.LoadsAndAddByte : Prop :=
  ∀ (x y : Reg) (nn : Byte) (s : State),
    (∃ t, exec (.loadByte x nn) s = .next t ∧ t.readV x = nn ∧
      (∀ r, r ≠ x → t.readV r = s.readV r) ∧ t = { s with v := t.v, pc := s.pc + 2 }) ∧
    (∃ t, exec (.addByte x nn) s = .next t ∧
      (t.readV x).toNat = ((s.readV x).toNat + nn.toNat) % 256 ∧
      (∀ r, r ≠ x → t.readV r = s.readV r) ∧ t = { s with v := t.v, pc := s.pc + 2 }) ∧
    (∃ t, exec (.move x y) s = .next t ∧ t.readV x = s.readV y ∧
      (∀ r, r ≠ x → t.readV r = s.readV r) ∧ t = { s with v := t.v, pc := s.pc + 2 })

/-- `Or`, `And`, `Xor` (R144–R146), bit by bit: only the destination and PC move; VF is not reset. -/
def Obligations.BitwiseOperations : Prop :=
  ∀ (x y : Reg) (s : State),
    (∃ t, exec (.or x y) s = .next t ∧
      (∀ b, (t.readV x).getLsbD b = ((s.readV x).getLsbD b || (s.readV y).getLsbD b)) ∧
      (∀ r, r ≠ x → t.readV r = s.readV r) ∧ t = { s with v := t.v, pc := s.pc + 2 }) ∧
    (∃ t, exec (.and x y) s = .next t ∧
      (∀ b, (t.readV x).getLsbD b = ((s.readV x).getLsbD b && (s.readV y).getLsbD b)) ∧
      (∀ r, r ≠ x → t.readV r = s.readV r) ∧ t = { s with v := t.v, pc := s.pc + 2 }) ∧
    (∃ t, exec (.xor x y) s = .next t ∧
      (∀ b, (t.readV x).getLsbD b = ((s.readV x).getLsbD b ^^ (s.readV y).getLsbD b)) ∧
      (∀ r, r ≠ x → t.readV r = s.readV r) ∧ t = { s with v := t.v, pc := s.pc + 2 })

/-- `AddReg` (R147): the sum modulo 256, VF the carry unless VF is the destination, operands as they were at the
start of the step (Y = F included). -/
def Obligations.AddWithCarry : Prop :=
  ∀ (x y : Reg) (s : State), ∃ t, exec (.addReg x y) s = .next t ∧
    (t.readV x).toNat = ((s.readV x).toNat + (s.readV y).toNat) % 256 ∧
    (x ≠ 15 → t.readV 15 = if (s.readV x).toNat + (s.readV y).toNat > 255 then 1 else 0) ∧
    (∀ r, r ≠ x → r ≠ 15 → t.readV r = s.readV r) ∧ t = { s with v := t.v, pc := s.pc + 2 }

/-- `Sub` and `SubReverse` (R148, R150): the difference modulo 256, VF = 1 for no borrow unless VF is the
destination. -/
def Obligations.SubtractWithBorrow : Prop :=
  ∀ (x y : Reg) (s : State),
    (∃ t, exec (.sub x y) s = .next t ∧
      (t.readV x).toNat = ((s.readV x).toNat + 256 - (s.readV y).toNat) % 256 ∧
      (x ≠ 15 → t.readV 15 = if (s.readV x).toNat ≥ (s.readV y).toNat then 1 else 0) ∧
      (∀ r, r ≠ x → r ≠ 15 → t.readV r = s.readV r) ∧ t = { s with v := t.v, pc := s.pc + 2 }) ∧
    (∃ t, exec (.subReverse x y) s = .next t ∧
      (t.readV x).toNat = ((s.readV y).toNat + 256 - (s.readV x).toNat) % 256 ∧
      (x ≠ 15 → t.readV 15 = if (s.readV y).toNat ≥ (s.readV x).toNat then 1 else 0) ∧
      (∀ r, r ≠ x → r ≠ 15 → t.readV r = s.readV r) ∧ t = { s with v := t.v, pc := s.pc + 2 })

/-- `ShiftRight` and `ShiftLeft` (R149, R151): VX shifted in place by one whatever Y is (D6), VF the bit shifted
out unless VF is the destination. -/
def Obligations.ShiftsInPlace : Prop :=
  ∀ (x y : Reg) (s : State),
    (∃ t, exec (.shiftRight x y) s = .next t ∧
      (t.readV x).toNat = (s.readV x).toNat / 2 ∧
      (x ≠ 15 → (t.readV 15).toNat = (s.readV x).toNat % 2) ∧
      (∀ r, r ≠ x → r ≠ 15 → t.readV r = s.readV r) ∧ t = { s with v := t.v, pc := s.pc + 2 }) ∧
    (∃ t, exec (.shiftLeft x y) s = .next t ∧
      (t.readV x).toNat = (s.readV x).toNat * 2 % 256 ∧
      (x ≠ 15 → (t.readV 15).toNat = (s.readV x).toNat / 128) ∧
      (∀ r, r ≠ x → r ≠ 15 → t.readV r = s.readV r) ∧ t = { s with v := t.v, pc := s.pc + 2 })

/-! ### Index, random, timers, keys -/

/-- `LoadI`, `AddI`, `LoadSprite` (R161–R163): I takes NNN, the sum modulo 2^16 (D15) or the glyph address of the
low nibble (D12); PC + 2; nothing else, VF included. -/
def Obligations.IndexInstructions : Prop :=
  ∀ (nnn : Addr12) (x : Reg) (s : State),
    (∃ t, exec (.loadI nnn) s = .next t ∧ t.i.toNat = nnn.toNat ∧ t = { s with i := t.i, pc := s.pc + 2 }) ∧
    (∃ t, exec (.addI x) s = .next t ∧ t.i.toNat = (s.i.toNat + (s.readV x).toNat) % 65536 ∧
      t = { s with i := t.i, pc := s.pc + 2 }) ∧
    (∃ t, exec (.loadSprite x) s = .next t ∧ t.i.toNat = 0x050 + 5 * ((s.readV x).toNat % 16) ∧
      t = { s with i := t.i, pc := s.pc + 2 })

/-- `Random` (R171, R170): V[X] takes the source's byte masked by NN. Where the host has supplied bytes the first is
used and used up; where it has not, the byte is the free value, whatever that is (log entry 2). No other register
moves; PC + 2; nothing else but the source. -/
def Obligations.RandomMasksOneByte : Prop :=
  ∀ (x : Reg) (nn : Byte) (s : State),
    (∀ b bs, s.rngInput = b :: bs → ∃ t, exec (.random x nn) s = .next t ∧ t.readV x = b &&& nn ∧
      (∀ r, r ≠ x → t.readV r = s.readV r) ∧ t = { s with v := t.v, pc := s.pc + 2, rngInput := bs }) ∧
    (s.rngInput = [] → ∃ t, exec (.random x nn) s = .next t ∧
      t.readV x = Config.freeRandomByte s.rngDraws &&& nn ∧
      (∀ r, r ≠ x → t.readV r = s.readV r) ∧
      t = { s with v := t.v, pc := s.pc + 2, rngDraws := s.rngDraws + 1 })

/-- The timer instructions (R186–R188): V[X] takes DT, DT takes V[X], ST takes V[X]; PC + 2; nothing else. -/
def Obligations.TimerInstructions : Prop :=
  ∀ (x : Reg) (s : State),
    (∃ t, exec (.loadDelayTimer x) s = .next t ∧ t.readV x = s.dt ∧
      (∀ r, r ≠ x → t.readV r = s.readV r) ∧ t = { s with v := t.v, pc := s.pc + 2 }) ∧
    exec (.setDelayTimer x) s = .next { s with dt := s.readV x, pc := s.pc + 2 } ∧
    exec (.setSoundTimer x) s = .next { s with st := s.readV x, pc := s.pc + 2 }

/-- `WaitForKeyPress` with a key pressed (R189): V[X] takes the least pressed index (D10), PC + 2, nothing
else. -/
def Obligations.KeyWaitTakesLeastKey : Prop :=
  ∀ (x : Reg) (k : Fin 16) (s : State), s.keys[k.val] = true →
    (∀ j : Fin 16, j.val < k.val → s.keys[j.val] = false) →
    ∃ t, exec (.waitForKeyPress x) s = .next t ∧ (t.readV x).toNat = k.val ∧
      (∀ r, r ≠ x → t.readV r = s.readV r) ∧ t = { s with v := t.v, pc := s.pc + 2 }

/-- `WaitForKeyPress` with no key pressed succeeds and changes nothing, PC included (R108). -/
def Obligations.KeyWaitStallsInPlace : Prop :=
  ∀ (x : Reg) (s : State), (∀ k : Fin 16, s.keys[k.val] = false) →
    exec (.waitForKeyPress x) s = .next s

/-! ### Display -/

/-- `ClearDisplay` (R175): every pixel 0, DIRTY 1 even on a blank grid (D24), PC + 2, nothing else. -/
def Obligations.ClearDisplayBlanksGrid : Prop :=
  ∀ s : State, ∃ t, exec .clearDisplay s = .next t ∧
    (∀ (cx : Fin 64) (cy : Fin 32), Grid.pixel t.grid cx cy = false) ∧
    t = { s with grid := t.grid, dirty := true, pc := s.pc + 2 }

/-- `Draw` (R176) is the set operation of R177: the pixel loop gives G XOR the cells the sprite's set bits
address, and VF = 1 exactly when the sprite and the grid share a set cell, else 0; every other register, and all
else but DIRTY and PC, keeps its value. Coordinates in VF are the old VF. -/
def Obligations.DrawTogglesSpriteCells : Prop :=
  ∀ (x y : Reg) (n : Nat) (s : State), n < 16 → (n = 0 ∨ s.i.toNat + n ≤ 4096) →
    ∃ t, exec (.draw x y n) s = .next t ∧
      (∀ (cx : Fin 64) (cy : Fin 32), Grid.pixel t.grid cx cy = true ↔
        ¬ (Grid.pixel s.grid cx cy = true ↔ spriteCovers s x y n cx cy)) ∧
      (t.readV 15 = 0 ∨ t.readV 15 = 1) ∧
      (t.readV 15 = 1 ↔ ∃ cx cy, spriteCovers s x y n cx cy ∧ Grid.pixel s.grid cx cy = true) ∧
      (∀ r, r ≠ 15 → t.readV r = s.readV r) ∧
      t = { s with v := t.v, grid := t.grid, dirty := true, pc := s.pc + 2 }

/-- `Draw` with N = 0 completes whatever I is, toggles nothing, writes VF = 0 and sets DIRTY (R178; D24). -/
def Obligations.DrawNoRows : Prop :=
  ∀ (x y : Reg) (s : State), ∃ t, exec (.draw x y 0) s = .next t ∧ t.readV 15 = 0 ∧
    (∀ r, r ≠ 15 → t.readV r = s.readV r) ∧ t = { s with v := t.v, dirty := true, pc := s.pc + 2 }

/-! ### Bulk memory -/

/-- `StoreBCD` (R196): the three decimal digits of V[X] at I, I + 1, I + 2, every other byte as before, I
unchanged (D11); past memory it faults and writes nothing. -/
def Obligations.StoreBcdWritesDigits : Prop :=
  ∀ (x : Reg) (s : State), Memory.wf s.mem = true →
    (s.i.toNat + 3 ≤ 4096 → ∃ t, exec (.storeBCD x) s = .next t ∧
      (Memory.read t.mem s.i.toNat).toNat = (s.readV x).toNat / 100 ∧
      (Memory.read t.mem (s.i.toNat + 1)).toNat = (s.readV x).toNat / 10 % 10 ∧
      (Memory.read t.mem (s.i.toNat + 2)).toNat = (s.readV x).toNat % 10 ∧
      (∀ a, a < s.i.toNat ∨ s.i.toNat + 3 ≤ a → Memory.read t.mem a = Memory.read s.mem a) ∧
      Memory.wf t.mem = true ∧ t = { s with mem := t.mem, pc := s.pc + 2 }) ∧
    (4096 < s.i.toNat + 3 → exec (.storeBCD x) s = .fault (.outOfBounds (.mem (max s.i.toNat 4096))))

/-- `StoreRegisters` (R197): M[I + k] takes V[k] for k = 0..X, every other byte as before, I unchanged (D11); past
memory it faults and writes nothing. -/
def Obligations.StoreRegistersWritesBlock : Prop :=
  ∀ (x : Reg) (s : State), Memory.wf s.mem = true →
    (s.i.toNat + x.val + 1 ≤ 4096 → ∃ t, exec (.storeRegisters x) s = .next t ∧
      (∀ k : Reg, k.val ≤ x.val → Memory.read t.mem (s.i.toNat + k.val) = s.readV k) ∧
      (∀ a, a < s.i.toNat ∨ s.i.toNat + x.val + 1 ≤ a → Memory.read t.mem a = Memory.read s.mem a) ∧
      Memory.wf t.mem = true ∧ t = { s with mem := t.mem, pc := s.pc + 2 }) ∧
    (4096 < s.i.toNat + x.val + 1 →
      exec (.storeRegisters x) s = .fault (.outOfBounds (.mem (max s.i.toNat 4096))))

/-- `LoadRegisters` (R198): V[k] takes M[I + k] for k = 0..X, the registers above X and everything else as before,
I unchanged (D11); past memory it faults and no register is written. -/
def Obligations.LoadRegistersReadsBlock : Prop :=
  ∀ (x : Reg) (s : State),
    (s.i.toNat + x.val + 1 ≤ 4096 → ∃ t, exec (.loadRegisters x) s = .next t ∧
      (∀ k : Reg, k.val ≤ x.val → t.readV k = Memory.read s.mem (s.i.toNat + k.val)) ∧
      (∀ k : Reg, x.val < k.val → t.readV k = s.readV k) ∧ t = { s with v := t.v, pc := s.pc + 2 }) ∧
    (4096 < s.i.toNat + x.val + 1 →
      exec (.loadRegisters x) s = .fault (.outOfBounds (.mem (max s.i.toNat 4096))))

/-- A block store then a block load of the same X restores every register, after any change of V0..VX in between;
a block load then a block store leaves memory as it was (R199, with I unchanged by both). -/
def Obligations.BlockRoundTrips : Prop :=
  ∀ (x : Reg) (s t u : State) (v : Vector Byte 16), Memory.wf s.mem = true →
    (∀ k : Reg, x.val < k.val → v[k.val] = s.readV k) →
    (exec (.storeRegisters x) s = .next t → exec (.loadRegisters x) { t with v := v } = .next u →
      ∀ k, u.readV k = s.readV k) ∧
    (exec (.loadRegisters x) s = .next t → exec (.storeRegisters x) t = .next u → u.mem = s.mem)

/-- Bytes stored by `StoreRegisters` are what the next fetch of that address reads, with nothing between
(R63; D25): PC at I + k sees V[k] ++ V[k+1]. -/
def Obligations.StoredBytesAreFetched : Prop :=
  ∀ (x k k' : Reg) (s t : State) (pc : Word), Memory.wf s.mem = true →
    exec (.storeRegisters x) s = .next t → k'.val = k.val + 1 → k'.val ≤ x.val →
    pc.toNat = s.i.toNat + k.val →
    ({ t with pc := pc } : State).fetchWord.toNat = (s.readV k).toNat * 256 + (s.readV k').toNat

/-! ### Ticks and the other transactions -/

/-- One tick (R224): each timer one less, not below zero, nothing else; `tone_end` exactly when ST was 1,
`tone_active` exactly when ST is nonzero after the tick (R226; D19). -/
def Obligations.TickCountsDown : Prop :=
  ∀ s : State,
    s.tick.dt.toNat = s.dt.toNat - 1 ∧ s.tick.st.toNat = s.st.toNat - 1 ∧
    s.tick = { s with dt := s.tick.dt, st := s.tick.st } ∧
    (s.tickResponse.toneEnd = true ↔ s.st.toNat = 1) ∧
    (s.tickResponse.toneActive = true ↔ s.tick.st.toNat ≠ 0) ∧
    (s.tone = true ↔ s.st.toNat ≠ 0)

/-- k ticks take DT to max(DT − k, 0) and ST to max(ST − k, 0) (R225). -/
def Obligations.TicksSaturateAtZero : Prop :=
  ∀ (k : Nat) (s : State),
    (ticks k s).dt.toNat = s.dt.toNat - k ∧ (ticks k s).st.toNat = s.st.toNat - k

/-- Any number of execute steps, none of them `SetDelayTimer` or `SetSoundTimer`, with no tick between, leaves both
timers as they were (R109). -/
def Obligations.ExecuteStepsLeaveTimers : Prop :=
  ∀ (n : Nat) (s t : State), StepsWithoutTimerWrites n s t → t.dt = s.dt ∧ t.st = s.st

/-- `KEY(k, p)` sets K[k] and changes nothing else (R46). -/
def Obligations.KeyTransactionSetsOneKey : Prop :=
  ∀ (k : Key) (p : Bool) (s : State), ∃ t, perform (.key k p) s = .next t ∧ t.keys[k.val] = p ∧
    (∀ j : Key, j ≠ k → t.keys[j.val] = s.keys[j.val]) ∧ t = { s with keys := t.keys }

/-- `DISP_ACK` clears DIRTY and changes nothing else (R44); `DISP_READ` returns G and DIRTY and changes nothing
(R43). -/
def Obligations.DisplayTransactions : Prop :=
  ∀ s : State,
    perform .dispAck s = .next { s with dirty := false } ∧
    perform .dispRead s = .next s ∧ respond .dispRead s = .display s.grid s.dirty

/-- `LOAD` (R243, R47): an image of at most 3584 bytes stands at 0x200 on afterwards, every other byte and all else
as before; a longer one is refused with LoadTooLarge (D27). -/
def Obligations.LoadPlacesImage : Prop :=
  ∀ (image : List Byte) (s : State), Memory.wf s.mem = true →
    (image.length ≤ 3584 → ∃ t, s.load image = .next t ∧
      (∀ k, k < image.length → Memory.read t.mem (0x200 + k) = image.getD k 0) ∧
      (∀ a, a < 0x200 ∨ 0x200 + image.length ≤ a → Memory.read t.mem a = Memory.read s.mem a) ∧
      Memory.wf t.mem = true ∧ t = { s with mem := t.mem }) ∧
    (3584 < image.length → s.load image = .refused (.loadTooLarge image.length))

/-! ### Runs -/

/-- Stack discipline (R125): from SP = 0, 16 calls to any targets complete and leave SP = 16, where a 17th
overflows; 16 returns then complete and leave SP = 0, where a 17th underflows. -/
def Obligations.StackDiscipline : Prop :=
  ∀ (targets : List Addr12) (nnn : Addr12) (s : State), s.sp.val = 0 → targets.length = 16 →
    ∃ t u, runInstrs (targets.map Instr.call) s = .next t ∧ t.sp.val = 16 ∧
      exec (.call nnn) t = .fault .stackOverflow ∧
      runInstrs (List.replicate 16 Instr.ret) t = .next u ∧ u.sp.val = 0 ∧
      exec .ret u = .fault .stackUnderflow

/-- A state whose PC addresses a jump to itself is a fixed point of the execute step (R113, R122; D29). -/
def Obligations.SelfJumpIsFixedPoint : Prop :=
  ∀ s : State, s.atSelfJump → execStep s = .next s ∧ (s.schedule = [] → step s = .next s)

/-- Reset leaves PC = 0x200, the stack empty, the timers zero and the grid blank, as the source says (R37, R240), the
rest zero (D14) and memory holding the 80 font bytes at 0x050 and 0 elsewhere (D12, D13, D14). The host's side, the
model's own, starts with nothing scheduled or supplied (log entries 1, 2). -/
def Obligations.ResetConfiguration : Prop :=
  State.reset.pc = 0x200 ∧ State.reset.sp = 0 ∧ State.reset.dt = 0 ∧ State.reset.st = 0 ∧
  (∀ (cx : Fin 64) (cy : Fin 32), Grid.pixel State.reset.grid cx cy = false) ∧
  (∀ r : Reg, State.reset.readV r = 0) ∧ State.reset.i = 0 ∧
  (∀ j : Fin 16, State.reset.stack[j.val] = 0) ∧ (∀ k : Key, State.reset.keys[k.val] = false) ∧
  State.reset.dirty = false ∧
  (∀ d c : Nat, d < 16 → c < 5 →
    Memory.read State.reset.mem (0x050 + 5 * d + c) = (Font.glyphs.getD d []).getD c 0) ∧
  (∀ a : Nat, a < 0x050 ∨ 0x0A0 ≤ a → Memory.read State.reset.mem a = 0) ∧
  State.reset.schedule = [] ∧ State.reset.rngInput = []

/-- The state after reset meets the invariant. -/
def Obligations.ResetMeetsInvariant : Prop := State.reset.Inv

/-- From every state that meets the invariant, reachable or not, every step that completes gives one that meets it:
memory stays canonical inside 0x000–0xFFF, PC stays at most 0x10FE, return addresses at most 0x1000 (R50, R26, R120,
R123, R124). -/
def Obligations.StepKeepsInvariant : Prop :=
  ∀ s t : State, s.Inv → step s = .next t → t.Inv

/-- Every state of every run, from any image, schedule and random source, meets the invariant. -/
def Obligations.ReachableStatesMeetInvariant : Prop :=
  ∀ s : State, Reachable s → s.Inv
end

