-- ==== Sys2Proof/Laws/Decode.lean ====
section
/-! SUPPORT. The fields of a packed opcode (30_encoding.md R71, R78): reading a field back from `packNNN`,
`packXNN` or `packXYN` gives what was put there. -/

namespace Sys2Proof

@[simp] theorem regBits_toNat (x : Reg) : (regBits x).toNat = x.val := by
  simp only [regBits, BitVec.toNat_ofNat]; omega

/-! The value of a packed word as a number. -/

theorem packNNN_toNat (op : BitVec 4) (nnn : Addr12) :
    (packNNN op nnn).toNat = op.toNat * 4096 + nnn.toNat := by
  simp only [packNNN, BitVec.toNat_append, Nat.shiftLeft_eq]
  rw [← Nat.shiftLeft_eq, ← Nat.shiftLeft_add_eq_or_of_lt nnn.isLt, Nat.shiftLeft_eq]

theorem packXNN_toNat (op : BitVec 4) (x : Reg) (nn : Byte) :
    (packXNN op x nn).toNat = op.toNat * 4096 + x.val * 256 + nn.toNat := by
  have h1 : (regBits x ++ nn).toNat = x.val * 256 + nn.toNat := by
    rw [BitVec.toNat_append, ← Nat.shiftLeft_add_eq_or_of_lt nn.isLt, Nat.shiftLeft_eq, regBits_toNat]
  have h2 : (packXNN op x nn).toNat = op.toNat * 4096 + (regBits x ++ nn).toNat := by
    simp only [packXNN]
    rw [BitVec.toNat_append, ← Nat.shiftLeft_add_eq_or_of_lt (regBits x ++ nn).isLt, Nat.shiftLeft_eq]
  rw [h2, h1, Nat.add_assoc]

theorem packXYN_toNat (op : BitVec 4) (x y : Reg) (n : BitVec 4) :
    (packXYN op x y n).toNat = op.toNat * 4096 + x.val * 256 + y.val * 16 + n.toNat := by
  have h1 : (regBits y ++ n).toNat = y.val * 16 + n.toNat := by
    rw [BitVec.toNat_append, ← Nat.shiftLeft_add_eq_or_of_lt n.isLt, Nat.shiftLeft_eq, regBits_toNat]
  have h2 : (regBits x ++ (regBits y ++ n)).toNat = x.val * 256 + (regBits y ++ n).toNat := by
    rw [BitVec.toNat_append, ← Nat.shiftLeft_add_eq_or_of_lt (regBits y ++ n).isLt, Nat.shiftLeft_eq, regBits_toNat]
  have h3 : (packXYN op x y n).toNat = op.toNat * 4096 + (regBits x ++ (regBits y ++ n)).toNat := by
    simp only [packXYN]
    rw [BitVec.toNat_append, ← Nat.shiftLeft_add_eq_or_of_lt (regBits x ++ (regBits y ++ n)).isLt, Nat.shiftLeft_eq]
  rw [h3, h2, h1]; simp only [Nat.add_assoc]

/-! The fields of a word as numbers. -/

theorem opField_eq (w : Word) : opField w = w.toNat / 4096 := by
  have := w.isLt
  simp only [opField, BitVec.extractLsb'_toNat, Nat.shiftRight_eq_div_pow]
  omega

theorem xField_val (w : Word) : (xField w).val = w.toNat / 256 % 16 := by
  simp only [xField, BitVec.extractLsb'_toNat, Nat.shiftRight_eq_div_pow]

theorem yField_val (w : Word) : (yField w).val = w.toNat / 16 % 16 := by
  simp only [yField, BitVec.extractLsb'_toNat, Nat.shiftRight_eq_div_pow]

theorem nField_eq (w : Word) : nField w = w.toNat % 16 := by
  simp only [nField, BitVec.extractLsb'_toNat, Nat.shiftRight_eq_div_pow]
  omega

theorem nnField_toNat (w : Word) : (nnField w).toNat = w.toNat % 256 := by
  simp only [nnField, BitVec.extractLsb'_toNat, Nat.shiftRight_eq_div_pow]
  omega

theorem nnnField_toNat (w : Word) : (nnnField w).toNat = w.toNat % 4096 := by
  simp only [nnnField, BitVec.extractLsb'_toNat, Nat.shiftRight_eq_div_pow]
  omega

/-! Reading a packed word's fields back. -/

@[simp] theorem opField_packNNN (op : BitVec 4) (nnn : Addr12) : opField (packNNN op nnn) = op.toNat := by
  rw [opField_eq, packNNN_toNat]; omega

@[simp] theorem nnnField_packNNN (op : BitVec 4) (nnn : Addr12) : nnnField (packNNN op nnn) = nnn :=
  BitVec.eq_of_toNat_eq (by rw [nnnField_toNat, packNNN_toNat]; omega)

@[simp] theorem opField_packXNN (op : BitVec 4) (x : Reg) (nn : Byte) : opField (packXNN op x nn) = op.toNat := by
  rw [opField_eq, packXNN_toNat]; omega

@[simp] theorem xField_packXNN (op : BitVec 4) (x : Reg) (nn : Byte) : xField (packXNN op x nn) = x :=
  Fin.ext (by rw [xField_val, packXNN_toNat]; omega)

@[simp] theorem nnField_packXNN (op : BitVec 4) (x : Reg) (nn : Byte) : nnField (packXNN op x nn) = nn :=
  BitVec.eq_of_toNat_eq (by rw [nnField_toNat, packXNN_toNat]; omega)

@[simp] theorem opField_packXYN (op : BitVec 4) (x y : Reg) (n : BitVec 4) :
    opField (packXYN op x y n) = op.toNat := by
  rw [opField_eq, packXYN_toNat]; omega

@[simp] theorem xField_packXYN (op : BitVec 4) (x y : Reg) (n : BitVec 4) : xField (packXYN op x y n) = x :=
  Fin.ext (by rw [xField_val, packXYN_toNat]; omega)

@[simp] theorem yField_packXYN (op : BitVec 4) (x y : Reg) (n : BitVec 4) : yField (packXYN op x y n) = y :=
  Fin.ext (by rw [yField_val, packXYN_toNat]; omega)

@[simp] theorem nField_packXYN (op : BitVec 4) (x y : Reg) (n : BitVec 4) : nField (packXYN op x y n) = n.toNat := by
  rw [nField_eq, packXYN_toNat]; omega

/-! Putting a word's own fields back gives the word. -/

theorem packNNN_fields {w : Word} {op : BitVec 4} (h : opField w = op.toNat) :
    packNNN op (nnnField w) = w :=
  BitVec.eq_of_toNat_eq (by rw [packNNN_toNat, nnnField_toNat, ← h, opField_eq]; omega)

theorem packXNN_fields {w : Word} {op : BitVec 4} (h : opField w = op.toNat) :
    packXNN op (xField w) (nnField w) = w :=
  BitVec.eq_of_toNat_eq (by
    rw [packXNN_toNat, nnField_toNat, xField_val, ← h, opField_eq]; omega)

theorem packXYN_fields {w : Word} {op n : BitVec 4} (h : opField w = op.toNat) (hn : nField w = n.toNat) :
    packXYN op (xField w) (yField w) n = w :=
  BitVec.eq_of_toNat_eq (by
    rw [packXYN_toNat, xField_val, yField_val, ← h, ← hn, opField_eq, nField_eq]; omega)

/-- Big-endian assembly as a number (R52). -/
theorem wordOfBytes_toNat (hi lo : Byte) : (wordOfBytes hi lo).toNat = hi.toNat * 256 + lo.toNat := by
  simp only [wordOfBytes]
  rw [BitVec.toNat_append, ← Nat.shiftLeft_add_eq_or_of_lt lo.isLt, Nat.shiftLeft_eq]

/-- The two bytes of a word in memory order assemble to the word again. -/
@[simp] theorem wordOfBytes_bytesOfWord (w : Word) :
    wordOfBytes (bytesOfWord w).1 (bytesOfWord w).2 = w := by
  apply BitVec.eq_of_toNat_eq
  have := w.isLt
  rw [wordOfBytes_toNat]
  simp only [bytesOfWord, BitVec.extractLsb'_toNat, Nat.shiftRight_eq_div_pow]
  omega

/-- A decode failure carries the word itself (R73). -/
theorem decodeFailure_carries {w w' : Word} (h : decode w = .decodeFailure w') : w' = w := by
  unfold decode decode0 decode8 decodeE decodeF at h
  repeat' split at h
  all_goals first
    | (cases h; done)
    | (cases h; rfl)

end Sys2Proof
end

