-- ==== Sys2Proof/Laws/State.lean ====
section
/-! SUPPORT. What each named update of a state does to each field: one lemma a field and an update, true
by rfl, so that no later proof unfolds a record update. Last, the same for the random source. -/

namespace Sys2Proof.Machine

variable (s : State)

@[simp] theorem State.writeV_v (x : Reg) (b : Byte) : (s.writeV x b).v = s.v.set x.val b x.isLt := rfl
@[simp] theorem State.writeV_i (x : Reg) (b : Byte) : (s.writeV x b).i = s.i := rfl
@[simp] theorem State.writeV_pc (x : Reg) (b : Byte) : (s.writeV x b).pc = s.pc := rfl
@[simp] theorem State.writeV_sp (x : Reg) (b : Byte) : (s.writeV x b).sp = s.sp := rfl
@[simp] theorem State.writeV_stack (x : Reg) (b : Byte) : (s.writeV x b).stack = s.stack := rfl
@[simp] theorem State.writeV_dt (x : Reg) (b : Byte) : (s.writeV x b).dt = s.dt := rfl
@[simp] theorem State.writeV_st (x : Reg) (b : Byte) : (s.writeV x b).st = s.st := rfl
@[simp] theorem State.writeV_grid (x : Reg) (b : Byte) : (s.writeV x b).grid = s.grid := rfl
@[simp] theorem State.writeV_keys (x : Reg) (b : Byte) : (s.writeV x b).keys = s.keys := rfl
@[simp] theorem State.writeV_dirty (x : Reg) (b : Byte) : (s.writeV x b).dirty = s.dirty := rfl
@[simp] theorem State.writeV_mem (x : Reg) (b : Byte) : (s.writeV x b).mem = s.mem := rfl
@[simp] theorem State.writeV_schedule (x : Reg) (b : Byte) : (s.writeV x b).schedule = s.schedule := rfl
@[simp] theorem State.writeV_rngInput (x : Reg) (b : Byte) : (s.writeV x b).rngInput = s.rngInput := rfl
@[simp] theorem State.writeV_rngDraws (x : Reg) (b : Byte) : (s.writeV x b).rngDraws = s.rngDraws := rfl

@[simp] theorem State.loadV_v (x : Reg) (f : Nat → Byte) : (s.loadV x f).v = loadFirst s.v f (x.val + 1) := rfl
@[simp] theorem State.loadV_i (x : Reg) (f : Nat → Byte) : (s.loadV x f).i = s.i := rfl
@[simp] theorem State.loadV_pc (x : Reg) (f : Nat → Byte) : (s.loadV x f).pc = s.pc := rfl
@[simp] theorem State.loadV_sp (x : Reg) (f : Nat → Byte) : (s.loadV x f).sp = s.sp := rfl
@[simp] theorem State.loadV_stack (x : Reg) (f : Nat → Byte) : (s.loadV x f).stack = s.stack := rfl
@[simp] theorem State.loadV_dt (x : Reg) (f : Nat → Byte) : (s.loadV x f).dt = s.dt := rfl
@[simp] theorem State.loadV_st (x : Reg) (f : Nat → Byte) : (s.loadV x f).st = s.st := rfl
@[simp] theorem State.loadV_grid (x : Reg) (f : Nat → Byte) : (s.loadV x f).grid = s.grid := rfl
@[simp] theorem State.loadV_keys (x : Reg) (f : Nat → Byte) : (s.loadV x f).keys = s.keys := rfl
@[simp] theorem State.loadV_dirty (x : Reg) (f : Nat → Byte) : (s.loadV x f).dirty = s.dirty := rfl
@[simp] theorem State.loadV_mem (x : Reg) (f : Nat → Byte) : (s.loadV x f).mem = s.mem := rfl
@[simp] theorem State.loadV_schedule (x : Reg) (f : Nat → Byte) : (s.loadV x f).schedule = s.schedule := rfl
@[simp] theorem State.loadV_rngInput (x : Reg) (f : Nat → Byte) : (s.loadV x f).rngInput = s.rngInput := rfl
@[simp] theorem State.loadV_rngDraws (x : Reg) (f : Nat → Byte) : (s.loadV x f).rngDraws = s.rngDraws := rfl

@[simp] theorem State.setI_v (w : Word) : (s.setI w).v = s.v := rfl
@[simp] theorem State.setI_i (w : Word) : (s.setI w).i = w := rfl
@[simp] theorem State.setI_pc (w : Word) : (s.setI w).pc = s.pc := rfl
@[simp] theorem State.setI_sp (w : Word) : (s.setI w).sp = s.sp := rfl
@[simp] theorem State.setI_stack (w : Word) : (s.setI w).stack = s.stack := rfl
@[simp] theorem State.setI_dt (w : Word) : (s.setI w).dt = s.dt := rfl
@[simp] theorem State.setI_st (w : Word) : (s.setI w).st = s.st := rfl
@[simp] theorem State.setI_grid (w : Word) : (s.setI w).grid = s.grid := rfl
@[simp] theorem State.setI_keys (w : Word) : (s.setI w).keys = s.keys := rfl
@[simp] theorem State.setI_dirty (w : Word) : (s.setI w).dirty = s.dirty := rfl
@[simp] theorem State.setI_mem (w : Word) : (s.setI w).mem = s.mem := rfl
@[simp] theorem State.setI_schedule (w : Word) : (s.setI w).schedule = s.schedule := rfl
@[simp] theorem State.setI_rngInput (w : Word) : (s.setI w).rngInput = s.rngInput := rfl
@[simp] theorem State.setI_rngDraws (w : Word) : (s.setI w).rngDraws = s.rngDraws := rfl

@[simp] theorem State.setPc_v (w : Word) : (s.setPc w).v = s.v := rfl
@[simp] theorem State.setPc_i (w : Word) : (s.setPc w).i = s.i := rfl
@[simp] theorem State.setPc_pc (w : Word) : (s.setPc w).pc = w := rfl
@[simp] theorem State.setPc_sp (w : Word) : (s.setPc w).sp = s.sp := rfl
@[simp] theorem State.setPc_stack (w : Word) : (s.setPc w).stack = s.stack := rfl
@[simp] theorem State.setPc_dt (w : Word) : (s.setPc w).dt = s.dt := rfl
@[simp] theorem State.setPc_st (w : Word) : (s.setPc w).st = s.st := rfl
@[simp] theorem State.setPc_grid (w : Word) : (s.setPc w).grid = s.grid := rfl
@[simp] theorem State.setPc_keys (w : Word) : (s.setPc w).keys = s.keys := rfl
@[simp] theorem State.setPc_dirty (w : Word) : (s.setPc w).dirty = s.dirty := rfl
@[simp] theorem State.setPc_mem (w : Word) : (s.setPc w).mem = s.mem := rfl
@[simp] theorem State.setPc_schedule (w : Word) : (s.setPc w).schedule = s.schedule := rfl
@[simp] theorem State.setPc_rngInput (w : Word) : (s.setPc w).rngInput = s.rngInput := rfl
@[simp] theorem State.setPc_rngDraws (w : Word) : (s.setPc w).rngDraws = s.rngDraws := rfl

@[simp] theorem State.advance_v : (s.advance).v = s.v := rfl
@[simp] theorem State.advance_i : (s.advance).i = s.i := rfl
@[simp] theorem State.advance_pc : (s.advance).pc = s.pc + 2 := rfl
@[simp] theorem State.advance_sp : (s.advance).sp = s.sp := rfl
@[simp] theorem State.advance_stack : (s.advance).stack = s.stack := rfl
@[simp] theorem State.advance_dt : (s.advance).dt = s.dt := rfl
@[simp] theorem State.advance_st : (s.advance).st = s.st := rfl
@[simp] theorem State.advance_grid : (s.advance).grid = s.grid := rfl
@[simp] theorem State.advance_keys : (s.advance).keys = s.keys := rfl
@[simp] theorem State.advance_dirty : (s.advance).dirty = s.dirty := rfl
@[simp] theorem State.advance_mem : (s.advance).mem = s.mem := rfl
@[simp] theorem State.advance_schedule : (s.advance).schedule = s.schedule := rfl
@[simp] theorem State.advance_rngInput : (s.advance).rngInput = s.rngInput := rfl
@[simp] theorem State.advance_rngDraws : (s.advance).rngDraws = s.rngDraws := rfl

@[simp] theorem State.skipIf_v (c : Bool) : (s.skipIf c).v = s.v := rfl
@[simp] theorem State.skipIf_i (c : Bool) : (s.skipIf c).i = s.i := rfl
@[simp] theorem State.skipIf_pc (c : Bool) : (s.skipIf c).pc = if c then s.pc + 4 else s.pc + 2 := rfl
@[simp] theorem State.skipIf_sp (c : Bool) : (s.skipIf c).sp = s.sp := rfl
@[simp] theorem State.skipIf_stack (c : Bool) : (s.skipIf c).stack = s.stack := rfl
@[simp] theorem State.skipIf_dt (c : Bool) : (s.skipIf c).dt = s.dt := rfl
@[simp] theorem State.skipIf_st (c : Bool) : (s.skipIf c).st = s.st := rfl
@[simp] theorem State.skipIf_grid (c : Bool) : (s.skipIf c).grid = s.grid := rfl
@[simp] theorem State.skipIf_keys (c : Bool) : (s.skipIf c).keys = s.keys := rfl
@[simp] theorem State.skipIf_dirty (c : Bool) : (s.skipIf c).dirty = s.dirty := rfl
@[simp] theorem State.skipIf_mem (c : Bool) : (s.skipIf c).mem = s.mem := rfl
@[simp] theorem State.skipIf_schedule (c : Bool) : (s.skipIf c).schedule = s.schedule := rfl
@[simp] theorem State.skipIf_rngInput (c : Bool) : (s.skipIf c).rngInput = s.rngInput := rfl
@[simp] theorem State.skipIf_rngDraws (c : Bool) : (s.skipIf c).rngDraws = s.rngDraws := rfl

@[simp] theorem State.setDt_v (b : Byte) : (s.setDt b).v = s.v := rfl
@[simp] theorem State.setDt_i (b : Byte) : (s.setDt b).i = s.i := rfl
@[simp] theorem State.setDt_pc (b : Byte) : (s.setDt b).pc = s.pc := rfl
@[simp] theorem State.setDt_sp (b : Byte) : (s.setDt b).sp = s.sp := rfl
@[simp] theorem State.setDt_stack (b : Byte) : (s.setDt b).stack = s.stack := rfl
@[simp] theorem State.setDt_dt (b : Byte) : (s.setDt b).dt = b := rfl
@[simp] theorem State.setDt_st (b : Byte) : (s.setDt b).st = s.st := rfl
@[simp] theorem State.setDt_grid (b : Byte) : (s.setDt b).grid = s.grid := rfl
@[simp] theorem State.setDt_keys (b : Byte) : (s.setDt b).keys = s.keys := rfl
@[simp] theorem State.setDt_dirty (b : Byte) : (s.setDt b).dirty = s.dirty := rfl
@[simp] theorem State.setDt_mem (b : Byte) : (s.setDt b).mem = s.mem := rfl
@[simp] theorem State.setDt_schedule (b : Byte) : (s.setDt b).schedule = s.schedule := rfl
@[simp] theorem State.setDt_rngInput (b : Byte) : (s.setDt b).rngInput = s.rngInput := rfl
@[simp] theorem State.setDt_rngDraws (b : Byte) : (s.setDt b).rngDraws = s.rngDraws := rfl

@[simp] theorem State.setSt_v (b : Byte) : (s.setSt b).v = s.v := rfl
@[simp] theorem State.setSt_i (b : Byte) : (s.setSt b).i = s.i := rfl
@[simp] theorem State.setSt_pc (b : Byte) : (s.setSt b).pc = s.pc := rfl
@[simp] theorem State.setSt_sp (b : Byte) : (s.setSt b).sp = s.sp := rfl
@[simp] theorem State.setSt_stack (b : Byte) : (s.setSt b).stack = s.stack := rfl
@[simp] theorem State.setSt_dt (b : Byte) : (s.setSt b).dt = s.dt := rfl
@[simp] theorem State.setSt_st (b : Byte) : (s.setSt b).st = b := rfl
@[simp] theorem State.setSt_grid (b : Byte) : (s.setSt b).grid = s.grid := rfl
@[simp] theorem State.setSt_keys (b : Byte) : (s.setSt b).keys = s.keys := rfl
@[simp] theorem State.setSt_dirty (b : Byte) : (s.setSt b).dirty = s.dirty := rfl
@[simp] theorem State.setSt_mem (b : Byte) : (s.setSt b).mem = s.mem := rfl
@[simp] theorem State.setSt_schedule (b : Byte) : (s.setSt b).schedule = s.schedule := rfl
@[simp] theorem State.setSt_rngInput (b : Byte) : (s.setSt b).rngInput = s.rngInput := rfl
@[simp] theorem State.setSt_rngDraws (b : Byte) : (s.setSt b).rngDraws = s.rngDraws := rfl

@[simp] theorem State.setMem_v (m : Memory) : (s.setMem m).v = s.v := rfl
@[simp] theorem State.setMem_i (m : Memory) : (s.setMem m).i = s.i := rfl
@[simp] theorem State.setMem_pc (m : Memory) : (s.setMem m).pc = s.pc := rfl
@[simp] theorem State.setMem_sp (m : Memory) : (s.setMem m).sp = s.sp := rfl
@[simp] theorem State.setMem_stack (m : Memory) : (s.setMem m).stack = s.stack := rfl
@[simp] theorem State.setMem_dt (m : Memory) : (s.setMem m).dt = s.dt := rfl
@[simp] theorem State.setMem_st (m : Memory) : (s.setMem m).st = s.st := rfl
@[simp] theorem State.setMem_grid (m : Memory) : (s.setMem m).grid = s.grid := rfl
@[simp] theorem State.setMem_keys (m : Memory) : (s.setMem m).keys = s.keys := rfl
@[simp] theorem State.setMem_dirty (m : Memory) : (s.setMem m).dirty = s.dirty := rfl
@[simp] theorem State.setMem_mem (m : Memory) : (s.setMem m).mem = m := rfl
@[simp] theorem State.setMem_schedule (m : Memory) : (s.setMem m).schedule = s.schedule := rfl
@[simp] theorem State.setMem_rngInput (m : Memory) : (s.setMem m).rngInput = s.rngInput := rfl
@[simp] theorem State.setMem_rngDraws (m : Memory) : (s.setMem m).rngDraws = s.rngDraws := rfl

@[simp] theorem State.setGrid_v (g : Grid) : (s.setGrid g).v = s.v := rfl
@[simp] theorem State.setGrid_i (g : Grid) : (s.setGrid g).i = s.i := rfl
@[simp] theorem State.setGrid_pc (g : Grid) : (s.setGrid g).pc = s.pc := rfl
@[simp] theorem State.setGrid_sp (g : Grid) : (s.setGrid g).sp = s.sp := rfl
@[simp] theorem State.setGrid_stack (g : Grid) : (s.setGrid g).stack = s.stack := rfl
@[simp] theorem State.setGrid_dt (g : Grid) : (s.setGrid g).dt = s.dt := rfl
@[simp] theorem State.setGrid_st (g : Grid) : (s.setGrid g).st = s.st := rfl
@[simp] theorem State.setGrid_grid (g : Grid) : (s.setGrid g).grid = g := rfl
@[simp] theorem State.setGrid_keys (g : Grid) : (s.setGrid g).keys = s.keys := rfl
@[simp] theorem State.setGrid_dirty (g : Grid) : (s.setGrid g).dirty = true := rfl
@[simp] theorem State.setGrid_mem (g : Grid) : (s.setGrid g).mem = s.mem := rfl
@[simp] theorem State.setGrid_schedule (g : Grid) : (s.setGrid g).schedule = s.schedule := rfl
@[simp] theorem State.setGrid_rngInput (g : Grid) : (s.setGrid g).rngInput = s.rngInput := rfl
@[simp] theorem State.setGrid_rngDraws (g : Grid) : (s.setGrid g).rngDraws = s.rngDraws := rfl

@[simp] theorem State.push_v (w : Word) : (s.push w).v = s.v := rfl
@[simp] theorem State.push_i (w : Word) : (s.push w).i = s.i := rfl
@[simp] theorem State.push_pc (w : Word) : (s.push w).pc = s.pc := rfl
@[simp] theorem State.push_sp (w : Word) : (s.push w).sp = s.sp + 1 := rfl
@[simp] theorem State.push_stack (w : Word) : (s.push w).stack = s.stack.setIfInBounds s.sp.val w := rfl
@[simp] theorem State.push_dt (w : Word) : (s.push w).dt = s.dt := rfl
@[simp] theorem State.push_st (w : Word) : (s.push w).st = s.st := rfl
@[simp] theorem State.push_grid (w : Word) : (s.push w).grid = s.grid := rfl
@[simp] theorem State.push_keys (w : Word) : (s.push w).keys = s.keys := rfl
@[simp] theorem State.push_dirty (w : Word) : (s.push w).dirty = s.dirty := rfl
@[simp] theorem State.push_mem (w : Word) : (s.push w).mem = s.mem := rfl
@[simp] theorem State.push_schedule (w : Word) : (s.push w).schedule = s.schedule := rfl
@[simp] theorem State.push_rngInput (w : Word) : (s.push w).rngInput = s.rngInput := rfl
@[simp] theorem State.push_rngDraws (w : Word) : (s.push w).rngDraws = s.rngDraws := rfl

@[simp] theorem State.dropTop_v : (s.dropTop).v = s.v := rfl
@[simp] theorem State.dropTop_i : (s.dropTop).i = s.i := rfl
@[simp] theorem State.dropTop_pc : (s.dropTop).pc = s.pc := rfl
@[simp] theorem State.dropTop_sp : (s.dropTop).sp = s.sp - 1 := rfl
@[simp] theorem State.dropTop_stack : (s.dropTop).stack = s.stack := rfl
@[simp] theorem State.dropTop_dt : (s.dropTop).dt = s.dt := rfl
@[simp] theorem State.dropTop_st : (s.dropTop).st = s.st := rfl
@[simp] theorem State.dropTop_grid : (s.dropTop).grid = s.grid := rfl
@[simp] theorem State.dropTop_keys : (s.dropTop).keys = s.keys := rfl
@[simp] theorem State.dropTop_dirty : (s.dropTop).dirty = s.dirty := rfl
@[simp] theorem State.dropTop_mem : (s.dropTop).mem = s.mem := rfl
@[simp] theorem State.dropTop_schedule : (s.dropTop).schedule = s.schedule := rfl
@[simp] theorem State.dropTop_rngInput : (s.dropTop).rngInput = s.rngInput := rfl
@[simp] theorem State.dropTop_rngDraws : (s.dropTop).rngDraws = s.rngDraws := rfl

@[simp] theorem State.setKey_v (k : Key) (p : Bool) : (s.setKey k p).v = s.v := rfl
@[simp] theorem State.setKey_i (k : Key) (p : Bool) : (s.setKey k p).i = s.i := rfl
@[simp] theorem State.setKey_pc (k : Key) (p : Bool) : (s.setKey k p).pc = s.pc := rfl
@[simp] theorem State.setKey_sp (k : Key) (p : Bool) : (s.setKey k p).sp = s.sp := rfl
@[simp] theorem State.setKey_stack (k : Key) (p : Bool) : (s.setKey k p).stack = s.stack := rfl
@[simp] theorem State.setKey_dt (k : Key) (p : Bool) : (s.setKey k p).dt = s.dt := rfl
@[simp] theorem State.setKey_st (k : Key) (p : Bool) : (s.setKey k p).st = s.st := rfl
@[simp] theorem State.setKey_grid (k : Key) (p : Bool) : (s.setKey k p).grid = s.grid := rfl
@[simp] theorem State.setKey_keys (k : Key) (p : Bool) : (s.setKey k p).keys = s.keys.set k.val p k.isLt := rfl
@[simp] theorem State.setKey_dirty (k : Key) (p : Bool) : (s.setKey k p).dirty = s.dirty := rfl
@[simp] theorem State.setKey_mem (k : Key) (p : Bool) : (s.setKey k p).mem = s.mem := rfl
@[simp] theorem State.setKey_schedule (k : Key) (p : Bool) : (s.setKey k p).schedule = s.schedule := rfl
@[simp] theorem State.setKey_rngInput (k : Key) (p : Bool) : (s.setKey k p).rngInput = s.rngInput := rfl
@[simp] theorem State.setKey_rngDraws (k : Key) (p : Bool) : (s.setKey k p).rngDraws = s.rngDraws := rfl

@[simp] theorem State.dispAck_v : (s.dispAck).v = s.v := rfl
@[simp] theorem State.dispAck_i : (s.dispAck).i = s.i := rfl
@[simp] theorem State.dispAck_pc : (s.dispAck).pc = s.pc := rfl
@[simp] theorem State.dispAck_sp : (s.dispAck).sp = s.sp := rfl
@[simp] theorem State.dispAck_stack : (s.dispAck).stack = s.stack := rfl
@[simp] theorem State.dispAck_dt : (s.dispAck).dt = s.dt := rfl
@[simp] theorem State.dispAck_st : (s.dispAck).st = s.st := rfl
@[simp] theorem State.dispAck_grid : (s.dispAck).grid = s.grid := rfl
@[simp] theorem State.dispAck_keys : (s.dispAck).keys = s.keys := rfl
@[simp] theorem State.dispAck_dirty : (s.dispAck).dirty = false := rfl
@[simp] theorem State.dispAck_mem : (s.dispAck).mem = s.mem := rfl
@[simp] theorem State.dispAck_schedule : (s.dispAck).schedule = s.schedule := rfl
@[simp] theorem State.dispAck_rngInput : (s.dispAck).rngInput = s.rngInput := rfl
@[simp] theorem State.dispAck_rngDraws : (s.dispAck).rngDraws = s.rngDraws := rfl

@[simp] theorem State.supplyByte_v (b : Byte) : (s.supplyByte b).v = s.v := rfl
@[simp] theorem State.supplyByte_i (b : Byte) : (s.supplyByte b).i = s.i := rfl
@[simp] theorem State.supplyByte_pc (b : Byte) : (s.supplyByte b).pc = s.pc := rfl
@[simp] theorem State.supplyByte_sp (b : Byte) : (s.supplyByte b).sp = s.sp := rfl
@[simp] theorem State.supplyByte_stack (b : Byte) : (s.supplyByte b).stack = s.stack := rfl
@[simp] theorem State.supplyByte_dt (b : Byte) : (s.supplyByte b).dt = s.dt := rfl
@[simp] theorem State.supplyByte_st (b : Byte) : (s.supplyByte b).st = s.st := rfl
@[simp] theorem State.supplyByte_grid (b : Byte) : (s.supplyByte b).grid = s.grid := rfl
@[simp] theorem State.supplyByte_keys (b : Byte) : (s.supplyByte b).keys = s.keys := rfl
@[simp] theorem State.supplyByte_dirty (b : Byte) : (s.supplyByte b).dirty = s.dirty := rfl
@[simp] theorem State.supplyByte_mem (b : Byte) : (s.supplyByte b).mem = s.mem := rfl
@[simp] theorem State.supplyByte_schedule (b : Byte) : (s.supplyByte b).schedule = s.schedule := rfl
@[simp] theorem State.supplyByte_rngInput (b : Byte) : (s.supplyByte b).rngInput = s.rngInput ++ [b] := rfl
@[simp] theorem State.supplyByte_rngDraws (b : Byte) : (s.supplyByte b).rngDraws = s.rngDraws := rfl

@[simp] theorem State.tick_v : (s.tick).v = s.v := rfl
@[simp] theorem State.tick_i : (s.tick).i = s.i := rfl
@[simp] theorem State.tick_pc : (s.tick).pc = s.pc := rfl
@[simp] theorem State.tick_sp : (s.tick).sp = s.sp := rfl
@[simp] theorem State.tick_stack : (s.tick).stack = s.stack := rfl
@[simp] theorem State.tick_dt : (s.tick).dt = countDown s.dt := rfl
@[simp] theorem State.tick_st : (s.tick).st = countDown s.st := rfl
@[simp] theorem State.tick_grid : (s.tick).grid = s.grid := rfl
@[simp] theorem State.tick_keys : (s.tick).keys = s.keys := rfl
@[simp] theorem State.tick_dirty : (s.tick).dirty = s.dirty := rfl
@[simp] theorem State.tick_mem : (s.tick).mem = s.mem := rfl
@[simp] theorem State.tick_schedule : (s.tick).schedule = s.schedule := rfl
@[simp] theorem State.tick_rngInput : (s.tick).rngInput = s.rngInput := rfl
@[simp] theorem State.tick_rngDraws : (s.tick).rngDraws = s.rngDraws := rfl

/-! The random source: only `rngInput` and `rngDraws` move. -/

@[simp] theorem State.rndNext_v : s.rndNext.v = s.v := by unfold State.rndNext; split <;> rfl
@[simp] theorem State.rndNext_i : s.rndNext.i = s.i := by unfold State.rndNext; split <;> rfl
@[simp] theorem State.rndNext_pc : s.rndNext.pc = s.pc := by unfold State.rndNext; split <;> rfl
@[simp] theorem State.rndNext_sp : s.rndNext.sp = s.sp := by unfold State.rndNext; split <;> rfl
@[simp] theorem State.rndNext_stack : s.rndNext.stack = s.stack := by unfold State.rndNext; split <;> rfl
@[simp] theorem State.rndNext_dt : s.rndNext.dt = s.dt := by unfold State.rndNext; split <;> rfl
@[simp] theorem State.rndNext_st : s.rndNext.st = s.st := by unfold State.rndNext; split <;> rfl
@[simp] theorem State.rndNext_grid : s.rndNext.grid = s.grid := by unfold State.rndNext; split <;> rfl
@[simp] theorem State.rndNext_keys : s.rndNext.keys = s.keys := by unfold State.rndNext; split <;> rfl
@[simp] theorem State.rndNext_dirty : s.rndNext.dirty = s.dirty := by unfold State.rndNext; split <;> rfl
@[simp] theorem State.rndNext_mem : s.rndNext.mem = s.mem := by unfold State.rndNext; split <;> rfl
@[simp] theorem State.rndNext_schedule : s.rndNext.schedule = s.schedule := by unfold State.rndNext; split <;> rfl

theorem State.rndNext_rngInput : s.rndNext.rngInput = s.rngInput.tail := by
  unfold State.rndNext; split <;> simp_all

theorem State.rndNext_rngDraws :
    s.rndNext.rngDraws = if s.rngInput = [] then s.rngDraws + 1 else s.rngDraws := by
  unfold State.rndNext; split <;> simp_all

end Sys2Proof.Machine
end

