-- ==== Sys2Proof/Laws/Memory.lean ====
section
/-! SUPPORT. The laws of memory: read after write, everything else untouched, and the canonical form kept
by every memory operation (20_memory.md R50–R61). -/

namespace Sys2Proof.Machine

theorem Memory.read_cons (c : Nat) (d : Byte) (m : Memory) (a : Nat) :
    Memory.read ((c, d) :: m) a = if a = c then d else Memory.read m a := rfl

@[simp] theorem Memory.read_nil (a : Nat) : Memory.read [] a = Font.resetByte a := rfl

theorem Memory.wfFrom_mono {lo lo' : Nat} (h : lo' ≤ lo) :
    ∀ {m : Memory}, Memory.wfFrom lo m = true → Memory.wfFrom lo' m = true
  | [], _ => rfl
  | (c, d) :: m, hm => by
    simp only [Memory.wfFrom, Bool.and_eq_true, decide_eq_true_eq] at hm ⊢
    exact ⟨⟨⟨by omega, hm.1.1.2⟩, hm.1.2⟩, hm.2⟩

/-- An address below every listed one reads its reset contents. -/
theorem Memory.read_of_lt {lo a : Nat} (h : a < lo) :
    ∀ {m : Memory}, Memory.wfFrom lo m = true → Memory.read m a = Font.resetByte a
  | [], _ => rfl
  | (c, d) :: m, hm => by
    simp only [Memory.wfFrom, Bool.and_eq_true, decide_eq_true_eq] at hm
    rw [Memory.read_cons, if_neg (by omega)]
    exact Memory.read_of_lt (by omega : a < c + 1) hm.2

theorem Memory.read_consByte_same {a : Nat} {b : Byte} {m : Memory} (hm : Memory.wfFrom (a + 1) m = true) :
    Memory.read (Memory.consByte a b m) a = b := by
  unfold Memory.consByte
  split
  · rw [Memory.read_of_lt (Nat.lt_succ_self a) hm]; exact Eq.symm ‹_›
  · simp [Memory.read_cons]

theorem Memory.read_consByte_ne {a a' : Nat} (h : a' ≠ a) (b : Byte) (m : Memory) :
    Memory.read (Memory.consByte a b m) a' = Memory.read m a' := by
  unfold Memory.consByte
  split
  · rfl
  · rw [Memory.read_cons, if_neg h]

theorem Memory.wfFrom_consByte {lo a : Nat} {b : Byte} {m : Memory} (hlo : lo ≤ a) (ha : a < Config.memSize)
    (hm : Memory.wfFrom (a + 1) m = true) : Memory.wfFrom lo (Memory.consByte a b m) = true := by
  unfold Memory.consByte
  split
  · exact Memory.wfFrom_mono (by omega) hm
  · simp only [Memory.wfFrom, Bool.and_eq_true, decide_eq_true_eq]
    exact ⟨⟨⟨hlo, ha⟩, ‹_›⟩, hm⟩

/-- A write leaves every other address alone, whatever the list. -/
theorem Memory.read_write_ne {a a' : Nat} (h : a' ≠ a) (b : Byte) :
    ∀ m : Memory, Memory.read (Memory.write m a b) a' = Memory.read m a'
  | [] => by simp only [Memory.write]; exact Memory.read_consByte_ne h b []
  | (c, d) :: m => by
    simp only [Memory.write]
    split
    · exact Memory.read_consByte_ne h b _
    · split
      · subst a; rw [Memory.read_consByte_ne h, Memory.read_cons, if_neg h]
      · rw [Memory.read_cons, Memory.read_cons, Memory.read_write_ne h b m]

theorem Memory.read_write_same_from {lo a : Nat} {b : Byte} (hlo : lo ≤ a) :
    ∀ {m : Memory}, Memory.wfFrom lo m = true → Memory.read (Memory.write m a b) a = b
  | [], _ => Memory.read_consByte_same rfl
  | (c, d) :: m, hm => by
    have hm' := hm
    simp only [Memory.wfFrom, Bool.and_eq_true, decide_eq_true_eq] at hm'
    simp only [Memory.write]
    split
    · refine Memory.read_consByte_same ?_
      simp only [Memory.wfFrom, Bool.and_eq_true, decide_eq_true_eq]
      exact ⟨⟨⟨by omega, hm'.1.1.2⟩, hm'.1.2⟩, hm'.2⟩
    · split
      · subst a; exact Memory.read_consByte_same hm'.2
      · rw [Memory.read_cons, if_neg ‹_›]
        exact Memory.read_write_same_from (by omega) hm'.2

/-- In a canonical memory a read after a write gives the byte written. -/
theorem Memory.read_write_same {m : Memory} (hm : Memory.wf m = true) (a : Nat) (b : Byte) :
    Memory.read (Memory.write m a b) a = b :=
  Memory.read_write_same_from (Nat.zero_le a) hm

theorem Memory.wfFrom_write {lo a : Nat} {b : Byte} (hlo : lo ≤ a) (ha : a < Config.memSize) :
    ∀ {m : Memory}, Memory.wfFrom lo m = true → Memory.wfFrom lo (Memory.write m a b) = true
  | [], _ => Memory.wfFrom_consByte hlo ha rfl
  | (c, d) :: m, hm => by
    have hm' := hm
    simp only [Memory.wfFrom, Bool.and_eq_true, decide_eq_true_eq] at hm'
    simp only [Memory.write]
    split
    · refine Memory.wfFrom_consByte hlo ha ?_
      simp only [Memory.wfFrom, Bool.and_eq_true, decide_eq_true_eq]
      exact ⟨⟨⟨by omega, hm'.1.1.2⟩, hm'.1.2⟩, hm'.2⟩
    · split
      · subst a; exact Memory.wfFrom_consByte hlo ha hm'.2
      · simp only [Memory.wfFrom, Bool.and_eq_true, decide_eq_true_eq]
        exact ⟨⟨⟨hm'.1.1.1, hm'.1.1.2⟩, hm'.1.2⟩, Memory.wfFrom_write (by omega) ha hm'.2⟩

/-- A write inside memory keeps the canonical form. -/
theorem Memory.wf_write {m : Memory} (hm : Memory.wf m = true) {a : Nat} (ha : a < Config.memSize) (b : Byte) :
    Memory.wf (Memory.write m a b) = true :=
  Memory.wfFrom_write (Nat.zero_le a) ha hm

@[simp] theorem Memory.writeBytes_nil (m : Memory) (a : Nat) : Memory.writeBytes m a [] = m := rfl

/-- Writing bytes inside memory keeps the canonical form. -/
theorem Memory.wf_writeBytes : ∀ {bs : List Byte} {m : Memory} {a : Nat}, Memory.wf m = true →
    a + bs.length ≤ Config.memSize → Memory.wf (Memory.writeBytes m a bs) = true
  | [], _, _, hm, _ => hm
  | b :: bs, _, _, hm, h => by
    simp only [List.length_cons] at h
    exact Memory.wf_writeBytes (bs := bs) (Memory.wf_write hm (by omega) b) (by omega)

/-- Writing bytes leaves every address outside them alone, whatever the list. -/
theorem Memory.read_writeBytes_outside : ∀ {bs : List Byte} {m : Memory} {a a' : Nat},
    a' < a ∨ a + bs.length ≤ a' → Memory.read (Memory.writeBytes m a bs) a' = Memory.read m a'
  | [], _, _, _, _ => rfl
  | b :: bs, m, a, a', h => by
    simp only [List.length_cons] at h
    rw [Memory.writeBytes, Memory.read_writeBytes_outside (by omega), Memory.read_write_ne (by omega)]

/-- In a canonical memory, byte k of the bytes written is what a + k then reads. -/
theorem Memory.read_writeBytes_inside : ∀ {bs : List Byte} {m : Memory} {a k : Nat}, Memory.wf m = true →
    a + bs.length ≤ Config.memSize → k < bs.length →
    Memory.read (Memory.writeBytes m a bs) (a + k) = bs.getD k 0
  | [], _, _, _, _, _, hk => by simp at hk
  | b :: bs, m, a, k, hm, h, hk => by
    simp only [List.length_cons] at h hk
    have hw := Memory.wf_write hm (by omega : a < Config.memSize) b
    match k with
    | 0 =>
      have ho : Memory.read (Memory.writeBytes (Memory.write m a b) (a + 1) bs) a = Memory.read (Memory.write m a b) a :=
        Memory.read_writeBytes_outside (Or.inl (by omega))
      show Memory.read (Memory.writeBytes (Memory.write m a b) (a + 1) bs) a = b
      rw [ho, Memory.read_write_same hm]
    | k + 1 =>
      have hk' := Memory.read_writeBytes_inside (bs := bs) (a := a + 1) (k := k) hw (by omega) (by omega)
      rw [show a + (k + 1) = a + 1 + k by omega, Memory.writeBytes, hk']
      simp

/-- Two canonical memories that read alike at every address are the same list. -/
theorem Memory.eq_of_read_from : ∀ {m m' : Memory} {lo : Nat}, Memory.wfFrom lo m = true →
    Memory.wfFrom lo m' = true → (∀ a, Memory.read m a = Memory.read m' a) → m = m'
  | [], [], _, _, _, _ => rfl
  | [], (c, d) :: m', _, _, h', hr => by
    have := hr c
    simp only [Memory.wfFrom, Bool.and_eq_true, decide_eq_true_eq] at h'
    simp only [Memory.read_nil, Memory.read_cons, if_true] at this
    exact absurd this.symm h'.1.2
  | (c, d) :: m, [], _, h, _, hr => by
    have := hr c
    simp only [Memory.wfFrom, Bool.and_eq_true, decide_eq_true_eq] at h
    simp only [Memory.read_nil, Memory.read_cons, if_true] at this
    exact absurd this h.1.2
  | (c, d) :: m, (c', d') :: m', lo, h, h', hr => by
    have g := h; have g' := h'
    simp only [Memory.wfFrom, Bool.and_eq_true, decide_eq_true_eq] at g g'
    have hc : c = c' := by
      rcases Nat.lt_trichotomy c c' with hlt | heq | hgt
      · have := hr c
        rw [Memory.read_cons, if_pos rfl, Memory.read_cons, if_neg (by omega),
          Memory.read_of_lt (by omega : c < c' + 1) g'.2] at this
        exact absurd this g.1.2
      · exact heq
      · have := hr c'
        rw [Memory.read_cons, if_neg (by omega), Memory.read_cons, if_pos rfl,
          Memory.read_of_lt (by omega : c' < c + 1) g.2] at this
        exact absurd this.symm g'.1.2
    subst hc
    have hd : d = d' := by have := hr c; simpa [Memory.read_cons] using this
    subst hd
    refine congrArg _ (Memory.eq_of_read_from g.2 g'.2 fun a => ?_)
    by_cases ha : a = c
    · rw [Memory.read_of_lt (by omega) g.2, Memory.read_of_lt (by omega) g'.2]
    · have := hr a
      rwa [Memory.read_cons, if_neg ha, Memory.read_cons, if_neg ha] at this

/-- Equal memories are equal data. -/
theorem Memory.eq_of_read {m m' : Memory} (h : Memory.wf m = true) (h' : Memory.wf m' = true)
    (hr : ∀ a, Memory.read m a = Memory.read m' a) : m = m' :=
  Memory.eq_of_read_from h h' hr

end Sys2Proof.Machine
end

