-- ==== Sys2Proof/Laws/Ops.lean ====
section
/-! SUPPORT. One lemma for each shared operation, saying all it can do: the guarded commit, the bounds
check, the register file, the call stack and the pixel grid. -/

namespace Sys2Proof.Machine

/-! ### Checks -/

@[simp] theorem guarded_none (t : State) : guarded none t = .next t := rfl

@[simp] theorem guarded_some (f : Fault) (t : State) : guarded (some f) t = .fault f := rfl

/-- A guarded effect completes exactly when its check passes, with that effect. -/
theorem guarded_eq_next {c : Option Fault} {t t' : State} :
    guarded c t = .next t' ↔ c = none ∧ t = t' := by
  cases c <;> simp

/-- A guarded effect faults exactly with its check's fault. -/
theorem guarded_eq_fault {c : Option Fault} {t : State} {f : Fault} :
    guarded c t = .fault f ↔ c = some f := by
  cases c <;> simp

/-- `Bounds(a, n)` passes exactly when the access is empty or lies in memory. -/
theorem boundsFault_eq_none {a n : Nat} : boundsFault a n = none ↔ n = 0 ∨ a + n ≤ 4096 := by
  unfold boundsFault Config.memSize
  split
  · simp_all
  · split
    · simp; omega
    · simp; omega

/-- When it does not pass, the fault names the lowest address outside memory. -/
theorem boundsFault_eq_some {a n : Nat} {f : Fault} :
    boundsFault a n = some f ↔ (n ≠ 0 ∧ 4096 < a + n) ∧ f = .outOfBounds (.mem (max a 4096)) := by
  unfold boundsFault Config.memSize
  split
  · simp_all
  · split
    · simp; omega
    · simp only [Option.some.injEq, eq_comm (a := f)]
      constructor
      · intro h; exact ⟨⟨by omega, by omega⟩, h⟩
      · exact And.right

/-! ### Registers -/

@[simp] theorem State.readV_writeV_same (s : State) (x : Reg) (b : Byte) : (s.writeV x b).readV x = b := by
  simp [State.readV]

theorem State.readV_writeV_ne {x y : Reg} (h : y ≠ x) (s : State) (b : Byte) :
    (s.writeV x b).readV y = s.readV y := by
  have : x.val ≠ y.val := fun e => h (Fin.ext e.symm)
  simp [State.readV, Vector.getElem_set_ne, this]

theorem State.readV_writeV (s : State) (x y : Reg) (b : Byte) :
    (s.writeV x b).readV y = if y = x then b else s.readV y := by
  split
  · subst y; simp
  · exact State.readV_writeV_ne ‹_› s b

theorem getElem_loadFirst (v : Vector Byte 16) (f : Nat → Byte) (j : Nat) (hj : j < 16) :
    ∀ n, (loadFirst v f n)[j] = if j < n then f j else v[j]
  | 0 => rfl
  | n + 1 => by
    simp only [loadFirst, Vector.getElem_setIfInBounds, getElem_loadFirst v f j hj n]
    by_cases h : n = j
    · subst h; simp
    · by_cases h' : j < n
      · simp [h, h', Nat.lt_succ_of_lt h']
      · have : ¬ j < n + 1 := by omega
        simp [h, h', this]

theorem State.readV_loadV (s : State) (last y : Reg) (f : Nat → Byte) :
    (s.loadV last f).readV y = if y.val ≤ last.val then f y.val else s.readV y := by
  simp only [State.readV, State.loadV, getElem_loadFirst, Nat.lt_succ_iff]

/-- A register reads alike in states with the same register file. -/
theorem State.readV_congr {s t : State} (h : s.v = t.v) (y : Reg) : s.readV y = t.readV y := by
  simp [State.readV, h]

/-! Updates of other fields leave every register as it was. -/

@[simp] theorem State.readV_setI (s : State) (w : Word) (y : Reg) : (s.setI w).readV y = s.readV y := rfl
@[simp] theorem State.readV_setPc (s : State) (w : Word) (y : Reg) : (s.setPc w).readV y = s.readV y := rfl
@[simp] theorem State.readV_advance (s : State) (y : Reg) : s.advance.readV y = s.readV y := rfl
@[simp] theorem State.readV_skipIf (s : State) (c : Bool) (y : Reg) : (s.skipIf c).readV y = s.readV y := rfl
@[simp] theorem State.readV_setDt (s : State) (b : Byte) (y : Reg) : (s.setDt b).readV y = s.readV y := rfl
@[simp] theorem State.readV_setSt (s : State) (b : Byte) (y : Reg) : (s.setSt b).readV y = s.readV y := rfl
@[simp] theorem State.readV_setMem (s : State) (m : Memory) (y : Reg) : (s.setMem m).readV y = s.readV y := rfl
@[simp] theorem State.readV_setGrid (s : State) (g : Grid) (y : Reg) : (s.setGrid g).readV y = s.readV y := rfl
@[simp] theorem State.readV_push (s : State) (w : Word) (y : Reg) : (s.push w).readV y = s.readV y := rfl
@[simp] theorem State.readV_dropTop (s : State) (y : Reg) : s.dropTop.readV y = s.readV y := rfl
@[simp] theorem State.readV_rndNext (s : State) (y : Reg) : s.rndNext.readV y = s.readV y :=
  State.readV_congr s.rndNext_v y

/-- The five flag-writing instructions' shape (R140): V[X] ends as the result, VF as the flag unless it is
V[X], and no other register moves. -/
theorem State.readV_flagThenResult (s : State) (x y : Reg) (flag : Bool) (r : Byte) :
    (s.flagThenResult x flag r).readV y =
      if y = x then r else if y = vf then (if flag then 1 else 0) else s.readV y := by
  simp only [State.flagThenResult, State.setFlag, State.readV_advance, State.readV_writeV]

/-- …and of the other fields only PC moves. -/
theorem State.flagThenResult_eq (s : State) (x : Reg) (flag : Bool) (r : Byte) :
    s.flagThenResult x flag r =
      { s with v := (s.flagThenResult x flag r).v, pc := s.pc + 2 } := rfl

/-- V0..VX as bytes: byte k is V[k]. -/
theorem State.length_regBytes (s : State) (x : Reg) : (s.regBytes x).length = x.val + 1 := by
  have := x.isLt
  simp only [State.regBytes, blockLength, List.length_take, Vector.length_toList]
  omega

theorem State.getD_regBytes (s : State) (x : Reg) (k : Reg) (h : k.val ≤ x.val) :
    (s.regBytes x).getD k.val 0 = s.readV k := by
  have hk : k.val < x.val + 1 := by omega
  simp [State.regBytes, blockLength, State.readV, hk]

/-! ### The call stack -/

theorem State.overflowFault_eq_none {s : State} : s.overflowFault = none ↔ s.sp.val < 16 := by
  unfold State.overflowFault Config.stackDepth
  split <;> simp <;> omega

theorem State.underflowFault_eq_none {s : State} : s.underflowFault = none ↔ 0 < s.sp.val := by
  unfold State.underflowFault
  split <;> simp <;> omega

theorem State.push_sp_val {s : State} (h : s.sp.val < 16) (w : Word) : (s.push w).sp.val = s.sp.val + 1 := by
  simp only [State.push_sp, Fin.val_add]; simp; omega

theorem State.dropTop_sp_val {s : State} (h : 0 < s.sp.val) : s.dropTop.sp.val = s.sp.val - 1 := by
  simp only [State.dropTop_sp, Fin.val_sub]; simp; omega

/-- The entry on top is the one just below SP. -/
theorem State.top_eq {s : State} (h : 0 < s.sp.val) :
    s.top = s.stack[s.sp.val - 1]'(by omega) := by
  have : s.sp.val - 1 < 16 := by omega
  simp [State.top, this]

/-- A push writes the entry at SP and no other. -/
theorem State.push_stack_get (s : State) (w : Word) (j : Fin 16) :
    (s.push w).stack[j.val] = if j.val = s.sp.val then w else s.stack[j.val] := by
  simp only [State.push_stack]
  simp [Vector.getElem_setIfInBounds, eq_comm]

/-! ### The pixel grid -/

/-- A toggle flips its own pixel and no other. -/
theorem Grid.pixel_toggle (g : Grid) (x x' : Fin 64) (y y' : Fin 32) :
    Grid.pixel (Grid.toggle g x y) x' y' =
      (Grid.pixel g x' y' ^^ (decide (x' = x) && decide (y' = y))) := by
  by_cases hx : x' = x
  · subst hx
    by_cases hy : y' = y
    · subst hy; simp [Grid.pixel, Grid.toggle]
    · have : y.val ≠ y'.val := fun e => hy (Fin.ext e.symm)
      simp [Grid.pixel, Grid.toggle, hy, Vector.getElem_set_ne, this]
  · have : x.val ≠ x'.val := fun e => hx (Fin.ext e.symm)
    simp [Grid.pixel, Grid.toggle, hx, Vector.getElem_set_ne, this]

@[simp] theorem Grid.pixel_blank (x : Fin 64) (y : Fin 32) : Grid.pixel Grid.blank x y = false := by
  simp [Grid.pixel, Grid.blank]

@[simp] theorem Grid.pixel_hit (a : DrawAcc) (x x' : Fin 64) (y y' : Fin 32) :
    Grid.pixel (a.hit x y).grid x' y' =
      (Grid.pixel a.grid x' y' ^^ (decide (x' = x) && decide (y' = y))) :=
  Grid.pixel_toggle a.grid x x' y y'

@[simp] theorem DrawAcc.hit_collision (a : DrawAcc) (x : Fin 64) (y : Fin 32) :
    (a.hit x y).collision = (a.collision || Grid.pixel a.grid x y) := rfl

end Sys2Proof.Machine
end

