-- ==== Sys2Proof/Laws/Draw.lean ====
section
/-! SUPPORT. What the pixel loop of `Draw` does, said once: it toggles the cells it addresses, each once, and
collides where one was set (46_display.md R176, R177). -/

namespace Sys2Proof.Machine

/-- The cells the first n columns of a row byte address. -/
def rowCovers (b : Byte) (x0 : Nat) (y : Fin 32) (n : Nat) (cx : Fin 64) (cy : Fin 32) : Prop :=
  ∃ c < n, b.getLsbD (7 - c) = true ∧ cx.val = (x0 + c) % 64 ∧ cy = y

/-- One row toggles exactly its cells, and notes a collision exactly when one of them was set. -/
theorem DrawAcc.row_toggles (b : Byte) (x0 : Nat) (y : Fin 32) : ∀ (n : Nat) (a : DrawAcc), n ≤ 8 →
    (∀ cx cy, Grid.pixel (DrawAcc.row b x0 y n a).grid cx cy = true ↔
      ¬ (Grid.pixel a.grid cx cy = true ↔ rowCovers b x0 y n cx cy)) ∧
    ((DrawAcc.row b x0 y n a).collision = true ↔
      a.collision = true ∨ ∃ cx cy, rowCovers b x0 y n cx cy ∧ Grid.pixel a.grid cx cy = true)
  | 0, a, _ => by
    constructor
    · intro cx cy; simp [DrawAcc.row, rowCovers]
    · simp [DrawAcc.row, rowCovers]
  | n + 1, a, hn => by
    obtain ⟨ih1, ih2⟩ := DrawAcc.row_toggles b x0 y n a (by omega)
    have step : ∀ cx cy, rowCovers b x0 y (n + 1) cx cy ↔
        rowCovers b x0 y n cx cy ∨ (b.getLsbD (7 - n) = true ∧ cx = wrapX (x0+n) ∧ cy = y) := by
      intro cx cy
      constructor
      · rintro ⟨c, hc, hb, hx, hy⟩
        by_cases e : c = n
        · subst e; exact .inr ⟨hb, Fin.ext hx, hy⟩
        · exact .inl ⟨c, by omega, hb, hx, hy⟩
      · rintro (⟨c, hc, hb, hx, hy⟩ | ⟨hb, hx, hy⟩)
        · exact ⟨c, by omega, hb, hx, hy⟩
        · exact ⟨n, by omega, hb, by rw [hx]; rfl, hy⟩
    have fresh : ¬ rowCovers b x0 y n (wrapX (x0+n)) y := by
      rintro ⟨c, hc, -, hx, -⟩
      simp [wrapX, Config.dispW] at hx; omega
    simp only [DrawAcc.row]
    split
    · rename_i hb
      constructor
      · intro cx cy
        rw [Grid.pixel_hit, step]
        have := ih1 cx cy
        by_cases hh : cx = wrapX (x0+n) ∧ cy = y
        · obtain ⟨rfl, rfl⟩ := hh
          simp [hb, fresh] at this ⊢; rw [this]
        · have : (decide (cx = wrapX (x0+n)) && decide (cy = y)) = false := by simpa using hh
          rw [this, Bool.xor_false, ih1]
          simp only [hb, true_and, hh, or_false]
      · rw [DrawAcc.hit_collision, Bool.or_eq_true, ih2, ih1]
        simp only [step]
        constructor
        · rintro ((h | ⟨cx, cy, h, h'⟩) | h)
          · exact .inl h
          · exact .inr ⟨cx, cy, .inl h, h'⟩
          · exact .inr ⟨_, _, .inr ⟨hb, rfl, rfl⟩, by simpa [fresh] using h⟩
        · rintro (h | ⟨cx, cy, h | ⟨_, rfl, rfl⟩, h'⟩)
          · exact .inl (.inl h)
          · exact .inl (.inr ⟨cx, cy, h, h'⟩)
          · exact .inr (by simpa [fresh] using h')
    · rename_i hb
      have e : ∀ cx cy, rowCovers b x0 y (n + 1) cx cy ↔
        rowCovers b x0 y n cx cy := by
        intro cx cy; rw [step]; simp [hb]
      simp only [e]; exact ⟨ih1, ih2⟩

/-- The cells the first n rows of a sprite address. -/
def rowsCover (m : Memory) (base x0 y0 n : Nat) (cx : Fin 64) (cy : Fin 32) : Prop :=
  ∃ r < n, rowCovers (Memory.read m (base + r)) x0 (wrapY (y0 + r)) 8 cx cy

/-- The whole loop does the same for all its rows: no two rows meet (R177). -/
theorem DrawAcc.rows_toggle (m : Memory) (base x0 y0 : Nat) : ∀ (n : Nat) (a : DrawAcc), n ≤ 32 →
    (∀ cx cy, Grid.pixel (DrawAcc.rows m base x0 y0 n a).grid cx cy = true ↔
      ¬ (Grid.pixel a.grid cx cy = true ↔ rowsCover m base x0 y0 n cx cy)) ∧
    ((DrawAcc.rows m base x0 y0 n a).collision = true ↔
      a.collision = true ∨ ∃ cx cy, rowsCover m base x0 y0 n cx cy ∧ Grid.pixel a.grid cx cy = true)
  | 0, a, _ => by
    constructor
    · intro cx cy; simp [DrawAcc.rows, rowsCover]
    · simp [DrawAcc.rows, rowsCover]
  | n + 1, a, hn => by
    obtain ⟨ih1, ih2⟩ := DrawAcc.rows_toggle m base x0 y0 n a (by omega)
    obtain ⟨r1, r2⟩ := DrawAcc.row_toggles (Memory.read m (base + n)) x0 (wrapY (y0 + n)) 8
      (DrawAcc.rows m base x0 y0 n a) (by omega)
    have step : ∀ cx cy, rowsCover m base x0 y0 (n + 1) cx cy ↔
        rowsCover m base x0 y0 n cx cy ∨
          rowCovers (Memory.read m (base + n)) x0 (wrapY (y0 + n)) 8 cx cy := by
      intro cx cy
      constructor
      · rintro ⟨c, hc, h⟩
        by_cases e : c = n
        · subst e; exact .inr h
        · exact .inl ⟨c, by omega, h⟩
      · rintro (⟨c, hc, h⟩ | h)
        · exact ⟨c, by omega, h⟩
        · exact ⟨n, by omega, h⟩
    have disj : ∀ cx cy, rowsCover m base x0 y0 n cx cy →
        ¬ rowCovers (Memory.read m (base + n)) x0 (wrapY (y0 + n)) 8 cx cy := by
      rintro cx cy ⟨r, hr, _, _, _, _, hy⟩ ⟨_, _, _, _, hy'⟩
      have := hy.symm.trans hy'
      simp [wrapY, Config.dispH] at this; omega
    simp only [DrawAcc.rows]
    constructor
    · intro cx cy
      rw [r1, ih1, step]
      have apart := disj cx cy
      by_cases hc : rowsCover m base x0 y0 n cx cy
      · simp [hc, apart hc]
      · simp [hc]
    · rw [r2, ih2]
      simp only [step, ih1]
      constructor
      · rintro ((h | ⟨cx, cy, h, h'⟩) | ⟨cx, cy, h, h'⟩)
        · exact .inl h
        · exact .inr ⟨cx, cy, .inl h, h'⟩
        · have apart : ¬ rowsCover m base x0 y0 n cx cy := fun hc => disj cx cy hc h
          exact .inr ⟨cx, cy, .inr h, by simpa [apart] using h'⟩
      · rintro (h | ⟨cx, cy, h | h, h'⟩)
        · exact .inl (.inl h)
        · exact .inl (.inr ⟨cx, cy, h, h'⟩)
        · have apart : ¬ rowsCover m base x0 y0 n cx cy := fun hc => disj cx cy hc h
          exact .inr ⟨cx, cy, h, by simpa [apart] using h'⟩

end Sys2Proof.Machine
end

