-- ==== Sys2Proof/Laws/Exec.lean ====
section
/-! SUPPORT. The inversion of `exec`, said once: the only next state an instruction can answer is its effect,
written with the named updates (40_cycle.md R105), and its check has passed. -/

namespace Sys2Proof.Machine

/-- The next state of an instruction when its check passes. -/
def effect (i : Instr) (s : State) : State :=
  match i with
  | .clearDisplay => (s.setGrid Grid.blank).advance
  | .ret => s.dropTop.setPc s.top
  | .jump nnn => s.setPc (addrOperand nnn)
  | .call nnn => (s.push (s.pc + 2)).setPc (addrOperand nnn)
  | .skipEqByte x nn => s.skipIf (decide (s.readV x = nn))
  | .skipNeByte x nn => s.skipIf (decide (s.readV x ≠ nn))
  | .skipEqReg x y => s.skipIf (decide (s.readV x = s.readV y))
  | .loadByte x nn => (s.writeV x nn).advance
  | .addByte x nn => (s.writeV x (s.readV x + nn)).advance
  | .move x y => (s.writeV x (s.readV y)).advance
  | .or x y => (s.writeV x (s.readV x ||| s.readV y)).advance
  | .and x y => (s.writeV x (s.readV x &&& s.readV y)).advance
  | .xor x y => (s.writeV x (s.readV x ^^^ s.readV y)).advance
  | .addReg x y => s.flagThenResult x (carryFlag (s.readV x) (s.readV y)) (s.readV x + s.readV y)
  | .sub x y => s.flagThenResult x (noBorrowFlag (s.readV x) (s.readV y)) (s.readV x - s.readV y)
  | .shiftRight x _ => s.flagThenResult x (shiftRightFlag (s.readV x)) (s.readV x >>> 1)
  | .subReverse x y => s.flagThenResult x (noBorrowFlag (s.readV y) (s.readV x)) (s.readV y - s.readV x)
  | .shiftLeft x _ => s.flagThenResult x (shiftLeftFlag (s.readV x)) (s.readV x <<< 1)
  | .skipNeReg x y => s.skipIf (decide (s.readV x ≠ s.readV y))
  | .loadI nnn => (s.setI (addrOperand nnn)).advance
  | .jumpPlusZero nnn => s.setPc (addrOperand nnn + s.wideV 0)
  | .random x nn => (s.rndNext.writeV x (s.rndByte &&& nn)).advance
  | .draw x y n => ((s.setGrid (s.drawn x y n).grid).setFlag (s.drawn x y n).collision).advance
  | .skipKeyPressed x => s.skipIf (s.keyDown (s.readV x).toNat)
  | .skipKeyNotPressed x => s.skipIf (!s.keyDown (s.readV x).toNat)
  | .loadDelayTimer x => (s.writeV x s.dt).advance
  | .waitForKeyPress x =>
    match s.leastKey with
    | some k => (s.writeV x (BitVec.ofNat 8 k.val)).advance
    | none => s
  | .setDelayTimer x => (s.setDt (s.readV x)).advance
  | .setSoundTimer x => (s.setSt (s.readV x)).advance
  | .addI x => (s.setI (s.i + s.wideV x)).advance
  | .loadSprite x => (s.setI (glyphOperand (s.readV x))).advance
  | .storeBCD x => (s.setMem (Memory.writeBytes s.mem s.base (bcdBytes (s.readV x)))).advance
  | .storeRegisters x => (s.setMem (Memory.writeBytes s.mem s.base (s.regBytes x))).advance
  | .loadRegisters x => (s.loadV x fun k => Memory.read s.mem (s.base + k)).advance

/-- The check of an instruction, as the meanings make it. -/
def check (i : Instr) (s : State) : Option Fault :=
  match i with
  | .ret => s.underflowFault
  | .call _ => s.overflowFault
  | .draw _ _ n => boundsFault s.base n
  | .skipKeyPressed x | .skipKeyNotPressed x => keyFault (s.readV x)
  | .storeBCD _ => boundsFault s.base bcdLength
  | .storeRegisters x | .loadRegisters x => boundsFault s.base (blockLength x)
  | _ => none

/-- Every instruction is its effect behind its check. -/
theorem exec_eq_guarded (i : Instr) (s : State) : exec i s = guarded (check i s) (effect i s) := by
  cases i
  case waitForKeyPress x =>
    simp only [exec, execWaitForKeyPress, effect, check]
    cases s.leastKey <;> rfl
  all_goals rfl

/-- The only next state an instruction can answer is its effect. -/
theorem exec_eq_next {i : Instr} {s t : State} : exec i s = .next t ↔ check i s = none ∧ effect i s = t := by
  rw [exec_eq_guarded, guarded_eq_next]

/-- The only fault an instruction can answer is its check's. -/
theorem exec_eq_fault {i : Instr} {s : State} {f : Fault} : exec i s = .fault f ↔ check i s = some f := by
  rw [exec_eq_guarded, guarded_eq_fault]

end Sys2Proof.Machine
end

