-- ==== Sys2Proof/Laws/PerInstr.lean ====
section
/-! SUPPORT. Statements made for every instruction, one lemma a constructor. `RowMatch`: the opcode of an
instruction lies in the row of the opcode map that bears its mnemonic (30_encoding.md R78). -/

namespace Sys2Proof

/-! Masking a packed word leaves its fixed fields. -/

theorem packNNN_masked (op : BitVec 4) (nnn : Addr12) : packNNN op nnn &&& 0xF000#16 = packNNN op 0 := by
  have h : (op ++ nnn) &&& (0xF#4 ++ 0#12) = (op &&& 0xF#4) ++ (nnn &&& 0#12) := BitVec.and_append
  rw [BitVec.and_zero, show (0xF#4 : BitVec 4) = BitVec.allOnes 4 from rfl, BitVec.and_allOnes] at h
  exact h

theorem packXNN_masked (op : BitVec 4) (x : Reg) (nn : Byte) :
    packXNN op x nn &&& 0xF000#16 = packNNN op 0 := packNNN_masked op (regBits x ++ nn)

theorem packXYN_masked_op (op : BitVec 4) (x y : Reg) (n : BitVec 4) :
    packXYN op x y n &&& 0xF000#16 = packNNN op 0 := packNNN_masked op (regBits x ++ (regBits y ++ n))

theorem packXNN_masked_sub (op : BitVec 4) (x : Reg) (nn : Byte) :
    packXNN op x nn &&& 0xF0FF#16 = packXNN op 0 nn := by
  have h : (op ++ (regBits x ++ nn)) &&& (0xF#4 ++ (0#4 ++ 0xFF#8)) = (op &&& 0xF#4) ++ ((regBits x ++ nn) &&& (0#4 ++ 0xFF#8)) :=
    BitVec.and_append
  have h' : (regBits x ++ nn) &&& (0#4 ++ 0xFF#8) = (regBits x &&& 0#4) ++ (nn &&& 0xFF#8) := BitVec.and_append
  rw [h', BitVec.and_zero, show (0xF#4 : BitVec 4) = BitVec.allOnes 4 from rfl, BitVec.and_allOnes,
    show (0xFF#8 : BitVec 8) = BitVec.allOnes 8 from rfl, BitVec.and_allOnes] at h
  exact h

theorem packXYN_masked (op : BitVec 4) (x y : Reg) (n : BitVec 4) :
    packXYN op x y n &&& 0xF00F#16 = packXYN op 0 0 n := by
  have h : (op ++ (regBits x ++ (regBits y ++ n))) &&& (0xF#4 ++ (0#4 ++ (0#4 ++ 0xF#4))) =
      (op &&& 0xF#4) ++ ((regBits x ++ (regBits y ++ n)) &&& (0#4 ++ (0#4 ++ 0xF#4))) := BitVec.and_append
  have h' : (regBits x ++ (regBits y ++ n)) &&& (0#4 ++ (0#4 ++ 0xF#4)) =
      (regBits x &&& 0#4) ++ ((regBits y ++ n) &&& (0#4 ++ 0xF#4)) := BitVec.and_append
  have h'' : (regBits y ++ n) &&& (0#4 ++ 0xF#4) = (regBits y &&& 0#4) ++ (n &&& 0xF#4) := BitVec.and_append
  rw [h', h'', BitVec.and_zero, BitVec.and_zero, show (0xF#4 : BitVec 4) = BitVec.allOnes 4 from rfl,
    BitVec.and_allOnes, BitVec.and_allOnes] at h
  exact h

theorem mem_opcodeMap {r : OpcodeRow} (h : opcodeMap.contains r = true) : r ∈ opcodeMap :=
  List.contains_iff_mem.mp h

namespace Laws.RowMatch

/-- The opcode of i is of i's row, and that row is one of the opcode map's. -/
def Statement (i : Instr) : Prop := encode i &&& i.row.mask = i.row.value ∧ i.row ∈ opcodeMap

theorem clearDisplay : Statement (Instr.clearDisplay) := ⟨by decide, mem_opcodeMap rfl⟩
theorem ret : Statement (Instr.ret) := ⟨by decide, mem_opcodeMap rfl⟩
theorem jump (nnn : Addr12) : Statement (Instr.jump nnn) := ⟨packNNN_masked _ _, mem_opcodeMap rfl⟩
theorem call (nnn : Addr12) : Statement (Instr.call nnn) := ⟨packNNN_masked _ _, mem_opcodeMap rfl⟩
theorem skipEqByte (x : Reg) (nn : Byte) : Statement (Instr.skipEqByte x nn) := ⟨packXNN_masked _ _ _, mem_opcodeMap rfl⟩
theorem skipNeByte (x : Reg) (nn : Byte) : Statement (Instr.skipNeByte x nn) := ⟨packXNN_masked _ _ _, mem_opcodeMap rfl⟩
theorem skipEqReg (x y : Reg) : Statement (Instr.skipEqReg x y) := ⟨packXYN_masked _ _ _ _, mem_opcodeMap rfl⟩
theorem loadByte (x : Reg) (nn : Byte) : Statement (Instr.loadByte x nn) := ⟨packXNN_masked _ _ _, mem_opcodeMap rfl⟩
theorem addByte (x : Reg) (nn : Byte) : Statement (Instr.addByte x nn) := ⟨packXNN_masked _ _ _, mem_opcodeMap rfl⟩
theorem move (x y : Reg) : Statement (Instr.move x y) := ⟨packXYN_masked _ _ _ _, mem_opcodeMap rfl⟩
theorem or (x y : Reg) : Statement (Instr.or x y) := ⟨packXYN_masked _ _ _ _, mem_opcodeMap rfl⟩
theorem and (x y : Reg) : Statement (Instr.and x y) := ⟨packXYN_masked _ _ _ _, mem_opcodeMap rfl⟩
theorem xor (x y : Reg) : Statement (Instr.xor x y) := ⟨packXYN_masked _ _ _ _, mem_opcodeMap rfl⟩
theorem addReg (x y : Reg) : Statement (Instr.addReg x y) := ⟨packXYN_masked _ _ _ _, mem_opcodeMap rfl⟩
theorem sub (x y : Reg) : Statement (Instr.sub x y) := ⟨packXYN_masked _ _ _ _, mem_opcodeMap rfl⟩
theorem shiftRight (x y : Reg) : Statement (Instr.shiftRight x y) := ⟨packXYN_masked _ _ _ _, mem_opcodeMap rfl⟩
theorem subReverse (x y : Reg) : Statement (Instr.subReverse x y) := ⟨packXYN_masked _ _ _ _, mem_opcodeMap rfl⟩
theorem shiftLeft (x y : Reg) : Statement (Instr.shiftLeft x y) := ⟨packXYN_masked _ _ _ _, mem_opcodeMap rfl⟩
theorem skipNeReg (x y : Reg) : Statement (Instr.skipNeReg x y) := ⟨packXYN_masked _ _ _ _, mem_opcodeMap rfl⟩
theorem loadI (nnn : Addr12) : Statement (Instr.loadI nnn) := ⟨packNNN_masked _ _, mem_opcodeMap rfl⟩
theorem jumpPlusZero (nnn : Addr12) : Statement (Instr.jumpPlusZero nnn) := ⟨packNNN_masked _ _, mem_opcodeMap rfl⟩
theorem random (x : Reg) (nn : Byte) : Statement (Instr.random x nn) := ⟨packXNN_masked _ _ _, mem_opcodeMap rfl⟩
theorem draw (x y : Reg) (n : Nat) : Statement (Instr.draw x y n) := ⟨packXYN_masked_op _ _ _ _, mem_opcodeMap rfl⟩
theorem skipKeyPressed (x : Reg) : Statement (Instr.skipKeyPressed x) := ⟨packXNN_masked_sub _ _ _, mem_opcodeMap rfl⟩
theorem skipKeyNotPressed (x : Reg) : Statement (Instr.skipKeyNotPressed x) := ⟨packXNN_masked_sub _ _ _, mem_opcodeMap rfl⟩
theorem loadDelayTimer (x : Reg) : Statement (Instr.loadDelayTimer x) := ⟨packXNN_masked_sub _ _ _, mem_opcodeMap rfl⟩
theorem waitForKeyPress (x : Reg) : Statement (Instr.waitForKeyPress x) := ⟨packXNN_masked_sub _ _ _, mem_opcodeMap rfl⟩
theorem setDelayTimer (x : Reg) : Statement (Instr.setDelayTimer x) := ⟨packXNN_masked_sub _ _ _, mem_opcodeMap rfl⟩
theorem setSoundTimer (x : Reg) : Statement (Instr.setSoundTimer x) := ⟨packXNN_masked_sub _ _ _, mem_opcodeMap rfl⟩
theorem addI (x : Reg) : Statement (Instr.addI x) := ⟨packXNN_masked_sub _ _ _, mem_opcodeMap rfl⟩
theorem loadSprite (x : Reg) : Statement (Instr.loadSprite x) := ⟨packXNN_masked_sub _ _ _, mem_opcodeMap rfl⟩
theorem storeBCD (x : Reg) : Statement (Instr.storeBCD x) := ⟨packXNN_masked_sub _ _ _, mem_opcodeMap rfl⟩
theorem storeRegisters (x : Reg) : Statement (Instr.storeRegisters x) := ⟨packXNN_masked_sub _ _ _, mem_opcodeMap rfl⟩
theorem loadRegisters (x : Reg) : Statement (Instr.loadRegisters x) := ⟨packXNN_masked_sub _ _ _, mem_opcodeMap rfl⟩

end Laws.RowMatch

end Sys2Proof
end

