-- ==== Sys2Proof/Laws/Step.lean ====
section
/-! SUPPORT. What a step can do, said once: the inversion of an execute step (40_cycle.md R100) and of one step
under the host's schedule (10_state.md R40). -/

namespace Sys2Proof.Machine

/-- The fetch passes exactly at PC ≤ 0xFFE (R102). -/
theorem State.fetchFault_eq_none {s : State} : s.fetchFault = none ↔ s.pc.toNat ≤ 0xFFE := by
  unfold State.fetchFault Config.insnBytes
  rw [boundsFault_eq_none]; omega

/-- Otherwise it faults with the lowest address outside memory. -/
theorem State.fetchFault_eq_some {s : State} (h : 0xFFF ≤ s.pc.toNat) :
    s.fetchFault = some (.outOfBounds (.mem (max s.pc.toNat 4096))) := by
  unfold State.fetchFault Config.insnBytes
  exact boundsFault_eq_some.mpr ⟨⟨by decide, by omega⟩, rfl⟩

/-- The opcode fetched, as a number: the byte at PC is the high one (R52). -/
theorem State.fetchWord_toNat (s : State) :
    s.fetchWord.toNat = (Memory.read s.mem s.pc.toNat).toNat * 256 + (Memory.read s.mem (s.pc.toNat + 1)).toNat :=
  wordOfBytes_toNat _ _

/-- Everything an execute step can do: fault at the fetch, fault at decoding, or execute what it
decoded. -/
theorem execStep_cases (s : State) :
    (0xFFF ≤ s.pc.toNat ∧ execStep s = .fault (.outOfBounds (.mem (max s.pc.toNat 4096)))) ∨
    (s.pc.toNat ≤ 0xFFE ∧ ∃ w, decode s.fetchWord = .decodeFailure w ∧ execStep s = .fault (.decodeFailure w)) ∨
    (s.pc.toNat ≤ 0xFFE ∧ ∃ i, decode s.fetchWord = .instr i ∧ execStep s = exec i s) := by
  unfold execStep
  rcases Nat.lt_or_ge 0xFFE s.pc.toNat with h | h
  · left; rw [State.fetchFault_eq_some h]; exact ⟨h, rfl⟩
  · right; rw [State.fetchFault_eq_none.mpr h]
    cases hd : decode s.fetchWord with
    | decodeFailure w => exact .inl ⟨h, w, rfl, rfl⟩
    | instr i => exact .inr ⟨h, i, rfl, rfl⟩

/-- Where the word at PC can be fetched and decodes, the execute step is that instruction. -/
theorem execStep_of_decode {s : State} {i : Instr} (hp : s.pc.toNat ≤ 0xFFE) (hd : decode s.fetchWord = .instr i) :
    execStep s = exec i s := by
  unfold execStep
  rw [State.fetchFault_eq_none.mpr hp, hd]

/-- Where it decodes to nothing, the step faults with what the decoder carries. -/
theorem execStep_of_decodeFailure {s : State} {w : Word} (hp : s.pc.toNat ≤ 0xFFE)
    (hd : decode s.fetchWord = .decodeFailure w) : execStep s = .fault (.decodeFailure w) := by
  unfold execStep
  rw [State.fetchFault_eq_none.mpr hp, hd]
  rfl

/-- An execute step that completes has executed a decoded instruction standing at PC ≤ 0xFFE. -/
theorem execStep_eq_next {s t : State} (h : execStep s = .next t) :
    s.pc.toNat ≤ 0xFFE ∧ ∃ i, decode s.fetchWord = .instr i ∧ exec i s = .next t := by
  rcases execStep_cases s with ⟨_, e⟩ | ⟨_, w, _, e⟩ | ⟨hp, i, hd, e⟩
  · rw [e] at h; cases h
  · rw [e] at h; cases h
  · exact ⟨hp, i, hd, e ▸ h⟩

/-- Everything a step can do: `EXEC` when the schedule is empty, else the schedule's first transaction. -/
theorem step_cases (s : State) :
    (s.schedule = [] ∧ step s = execStep s) ∨
    (∃ t ts, s.schedule = t :: ts ∧ step s = perform t { s with schedule := ts }) := by
  unfold step runNext
  cases h : s.schedule with
  | nil => exact .inl ⟨rfl, rfl⟩
  | cons t ts => exact .inr ⟨t, ts, rfl, rfl⟩

end Sys2Proof.Machine
end

