-- ==== Sys2Proof/Tests/Slice0.lean ====
section
/-! SUPPORT. The model's own tests. Expected results come from spec/95_test_vectors.md (their T- names are
given) or are worked by hand from the rule named; then, for each obligation with hypotheses, a witness that
meets them, at the boundaries of its clauses. -/

namespace Sys2Proof.Tests

open Sys2Proof Sys2Proof.Machine

/-! ### Helpers -/

/-- A state with some registers set. -/
def withV (l : List (Reg × Byte)) (s : State) : State := l.foldl (fun s p => s.writeV p.1 p.2) s

/-- A state with some bytes in memory. -/
def withBytes (a : Nat) (bs : List Byte) (s : State) : State := s.setMem (Memory.writeBytes s.mem a bs)

/-- A state with the stack entries 0 to n − 1 all w (n ≤ 16). -/
def withStack (n : Fin 17) (w : Word) (s : State) : State :=
  { s with stack := Vector.replicate 16 w, sp := n }

/-- A state with some keys pressed. -/
def withKeys (l : List Key) (s : State) : State := l.foldl (fun s k => s.setKey k true) s

/-- What one step of word w from s leaves, seen through f; none if it stops. -/
def after {α : Type} (w : Word) (s : State) (f : State → α) : Option α :=
  match step (s.withFetchWord 16 w.toNat) with
  | .next t => some (f t)
  | .fault _ => none
  | .refused _ => none

/-- The fault one step of word w from s raises, if it raises one. -/
def faultOf (w : Word) (s : State) : Option Fault :=
  match step (s.withFetchWord 16 w.toNat) with
  | .next _ => none
  | .fault f => some f
  | .refused _ => none

/-- Bytes of memory. -/
def bytesAt (s : State) (l : List Nat) : List Byte := l.map (Memory.read s.mem)

/-- Pixels of the grid. -/
def pixelsAt (s : State) (l : List (Fin 64 × Fin 32)) : List Bool := l.map fun p => Grid.pixel s.grid p.1 p.2

/-! ### Well-formedness: the check refuses the ill-formed term -/

theorem test_wellFormed_refuses_draw_16 : ¬ (Instr.draw 0 0 16).WellFormed := by decide

theorem test_wellFormed_accepts_draw_15 : (Instr.draw 0 0 15).WellFormed := by decide

/-! ### Decoding: each constructor's word, its bits written out from the row of R78 -/

theorem test_decode_clearDisplay : decode 0b0000000011100000 = .instr (.clearDisplay) := by decide

theorem test_decode_ret : decode 0b0000000011101110 = .instr (.ret) := by decide

theorem test_decode_jump : decode 0b0001001000110100 = .instr (.jump 0x234) := by decide

theorem test_decode_call : decode 0b0010111111101101 = .instr (.call 0xFED) := by decide

theorem test_decode_skipEqByte : decode 0b0011001101000010 = .instr (.skipEqByte 3 0x42) := by decide

theorem test_decode_skipNeByte : decode 0b0100101000011111 = .instr (.skipNeByte 10 0x1F) := by decide

theorem test_decode_skipEqReg : decode 0b0101000100100000 = .instr (.skipEqReg 1 2) := by decide

theorem test_decode_loadByte : decode 0b0110101000101011 = .instr (.loadByte 10 0x2B) := by decide

theorem test_decode_addByte : decode 0b0111001010000001 = .instr (.addByte 2 0x81) := by decide

theorem test_decode_move : decode 0b1000001111000000 = .instr (.move 3 12) := by decide

theorem test_decode_or : decode 0b1000001111000001 = .instr (.or 3 12) := by decide

theorem test_decode_and : decode 0b1000001111000010 = .instr (.and 3 12) := by decide

theorem test_decode_xor : decode 0b1000001111000011 = .instr (.xor 3 12) := by decide

theorem test_decode_addReg : decode 0b1000001111000100 = .instr (.addReg 3 12) := by decide

theorem test_decode_sub : decode 0b1000001111000101 = .instr (.sub 3 12) := by decide

theorem test_decode_shiftRight : decode 0b1000001111000110 = .instr (.shiftRight 3 12) := by decide

theorem test_decode_subReverse : decode 0b1000001111000111 = .instr (.subReverse 3 12) := by decide

theorem test_decode_shiftLeft : decode 0b1000001111001110 = .instr (.shiftLeft 3 12) := by decide

theorem test_decode_skipNeReg : decode 0b1001000100100000 = .instr (.skipNeReg 1 2) := by decide

theorem test_decode_loadI : decode 0b1010001011110000 = .instr (.loadI 0x2F0) := by decide

theorem test_decode_jumpPlusZero : decode 0b1011001100000001 = .instr (.jumpPlusZero 0x301) := by decide

theorem test_decode_random : decode 0b1100001100001111 = .instr (.random 3 0x0F) := by decide

theorem test_decode_draw : decode 0b1101000100100011 = .instr (.draw 1 2 3) := by decide

theorem test_decode_skipKeyPressed : decode 0b1110010110011110 = .instr (.skipKeyPressed 5) := by decide

theorem test_decode_skipKeyNotPressed : decode 0b1110010110100001 = .instr (.skipKeyNotPressed 5) := by decide

theorem test_decode_loadDelayTimer : decode 0b1111001000000111 = .instr (.loadDelayTimer 2) := by decide

theorem test_decode_waitForKeyPress : decode 0b1111001100001010 = .instr (.waitForKeyPress 3) := by decide

theorem test_decode_setDelayTimer : decode 0b1111001000010101 = .instr (.setDelayTimer 2) := by decide

theorem test_decode_setSoundTimer : decode 0b1111001000011000 = .instr (.setSoundTimer 2) := by decide

theorem test_decode_addI : decode 0b1111001100011110 = .instr (.addI 3) := by decide

theorem test_decode_loadSprite : decode 0b1111010000101001 = .instr (.loadSprite 4) := by decide

theorem test_decode_storeBCD : decode 0b1111000100110011 = .instr (.storeBCD 1) := by decide

theorem test_decode_storeRegisters : decode 0b1111111101010101 = .instr (.storeRegisters 15) := by decide

theorem test_decode_loadRegisters : decode 0b1111001001100101 = .instr (.loadRegisters 2) := by decide

/-- The failing words of 95_test_vectors.md L2.9 (T-DE-1 to T-DE-8). -/
theorem test_decode_failing_words :
    ([0x0000, 0x0123, 0x01E0, 0x00E1, 0x5AB7, 0x8ABC, 0xE000, 0xF0FF] : List Word).all
      (fun w => decode w == .decodeFailure w) = true := by decide

/-- R79: 4094 of the 4096 words of family 0x0 fail; here the neighbours of the two that do not. -/
theorem test_decode_family0_neighbours :
    ([0x00DF, 0x00E1, 0x00ED, 0x00EF, 0x00FF, 0x0FE0, 0x0FEE] : List Word).all
      (fun w => decode w == .decodeFailure w) = true := by decide

/-- R52: the byte at the lower address is the high one. -/
theorem test_decodeBytes_big_endian : decodeBytes [0xA2, 0xF0, 0x99] = .instr (.loadI 0x2F0) [0x99] := by
  decide

/-- R70: a decoder consumes exactly two bytes; one is not enough. -/
theorem test_decodeBytes_truncated : decodeBytes [0xA2] = .truncated := by decide

theorem test_decodeTableWord : decodeTableWord 16 0xD123 = some (.draw 1 2 3) := by decide

theorem test_decodeTableWord_refuses : decodeTableWord 16 0x0123 = none := by decide

/-- R83: high byte first. -/
theorem test_encode_bytes : bytesOfWord (encode (.shiftRight 0 1)) = (0x80, 0x16) := by decide

/-! ### Control flow (T-CF, L2.1) -/

/-- T-CF-1. -/
theorem test_jump : after 0x1234 State.reset (·.pc) = some 0x234 := by decide

/-- T-CF-5, the last free entry. -/
theorem test_call_at_depth_15 :
    after 0x2300 { withStack 15 0x202 State.reset with pc := 0x400 } (fun t => (t.sp, t.stack[15], t.pc)) =
      some (16, 0x402, 0x300) := by decide

/-- T-CF-6. -/
theorem test_call_overflow : faultOf 0x2300 (withStack 16 0x202 State.reset) = some .stackOverflow := by decide

/-- T-CF-9: the popped entry is not checked. -/
theorem test_return :
    after 0x00EE { withStack 2 0x1000 State.reset with pc := 0x300 } (fun t => (t.sp, t.stack[1], t.pc)) =
      some (1, 0x1000, 0x1000) := by decide

/-- T-CF-8. -/
theorem test_return_underflow : faultOf 0x00EE State.reset = some .stackUnderflow := by decide

/-- T-CF-11: the sum passes 0xFFF and does not wrap at 12 bits. -/
theorem test_jumpPlusZero : after 0xBFFF (withV [(0, 0xFF)] State.reset) (·.pc) = some 0x10FE := by decide

/-- T-CF-13. -/
theorem test_fetch_at_last_byte :
    execStep { State.reset with pc := 0xFFF } = .fault (.outOfBounds (.mem 0x1000)) := by rfl

/-! ### Skips (T-SK, L2.2) -/

/-- T-SK-1, T-SK-2. -/
theorem test_skipEqByte : after 0x3342 (withV [(3, 0x42)] State.reset) (·.pc) = some 0x204 ∧
    after 0x3342 (withV [(3, 0x41)] State.reset) (·.pc) = some 0x202 := by decide

/-- T-SK-3, T-SK-4. -/
theorem test_skipNeByte : after 0x4342 (withV [(3, 0x41)] State.reset) (·.pc) = some 0x204 ∧
    after 0x4342 (withV [(3, 0x42)] State.reset) (·.pc) = some 0x202 := by decide

/-- T-SK-5, and T-SK-7's operands. -/
theorem test_skipEqReg : after 0x5120 (withV [(1, 7), (2, 7)] State.reset) (·.pc) = some 0x204 ∧
    after 0x5120 (withV [(1, 7), (2, 8)] State.reset) (·.pc) = some 0x202 := by decide

/-- T-SK-7, T-SK-8. -/
theorem test_skipNeReg : after 0x9120 (withV [(1, 7), (2, 8)] State.reset) (·.pc) = some 0x204 ∧
    after 0x9110 (withV [(1, 7)] State.reset) (·.pc) = some 0x202 := by decide

/-- T-SK-11, T-SK-12. -/
theorem test_skipKeyPressed :
    after 0xE59E (withKeys [0xA] (withV [(5, 0xA)] State.reset)) (·.pc) = some 0x204 ∧
    after 0xE59E (withV [(5, 0xA)] State.reset) (·.pc) = some 0x202 := by decide

/-- T-SK-15: no masking of the index. -/
theorem test_skipKeyPressed_index :
    faultOf 0xE59E (withKeys [0] (withV [(5, 0x10)] State.reset)) = some (.outOfBounds (.key 0x10)) := by decide

/-- T-SK-13, T-SK-14. -/
theorem test_skipKeyNotPressed :
    after 0xE5A1 (withV [(5, 0xA)] State.reset) (·.pc) = some 0x204 ∧
    after 0xE5A1 (withKeys [0xA] (withV [(5, 0xA)] State.reset)) (·.pc) = some 0x202 := by decide

/-- T-SK-16. -/
theorem test_skipKeyNotPressed_index :
    faultOf 0xE5A1 (withV [(5, 0xFF)] State.reset) = some (.outOfBounds (.key 0xFF)) := by decide

/-! ### Load and arithmetic (T-AL, L2.3) -/

/-- T-AL-1. -/
theorem test_loadByte : after 0x6A2B State.reset (fun t => (t.readV 10, t.pc)) = some (0x2B, 0x202) := by decide

/-- T-AL-3: no flag on a carry out. -/
theorem test_addByte :
    after 0x7201 (withV [(2, 0xFF), (15, 7)] State.reset) (fun t => (t.readV 2, t.readV 15)) = some (0, 7) := by
  decide

/-- T-AL-5. -/
theorem test_move : after 0x8010 (withV [(1, 0x33)] State.reset) (·.readV 0) = some 0x33 := by decide

/-- T-AL-6: VF is not reset. -/
theorem test_or :
    after 0x8011 (withV [(0, 0x0F), (1, 0xF0), (15, 7)] State.reset) (fun t => (t.readV 0, t.readV 15)) =
      some (0xFF, 7) := by decide

/-- T-AL-7. -/
theorem test_and :
    after 0x8012 (withV [(0, 0x3C), (1, 0x0F), (15, 7)] State.reset) (fun t => (t.readV 0, t.readV 15)) =
      some (0x0C, 7) := by decide

/-- T-AL-8. -/
theorem test_xor : after 0x8013 (withV [(0, 0xFF), (1, 0x0F)] State.reset) (·.readV 0) = some 0xF0 := by decide

/-- T-AL-13. -/
theorem test_addReg_carry :
    after 0x8014 (withV [(0, 0x80), (1, 0x80)] State.reset) (fun t => (t.readV 0, t.readV 15)) = some (0, 1) := by
  decide

/-- T-AL-15: Y = F adds the old VF. T-AL-14: X = F leaves the sum. -/
theorem test_addReg_vf :
    after 0x80F4 (withV [(0, 0x64), (15, 0xC8)] State.reset) (fun t => (t.readV 0, t.readV 15)) =
      some (0x2C, 1) ∧
    after 0x8F14 (withV [(1, 0x64), (15, 0xC8)] State.reset) (·.readV 15) = some 0x2C := by decide

/-- T-AL-16. -/
theorem test_sub_borrow :
    after 0x8015 (withV [(0, 5), (1, 10)] State.reset) (fun t => (t.readV 0, t.readV 15)) = some (0xFB, 0) := by
  decide

/-- T-AL-18: equal operands do not borrow. T-AL-21: X = F leaves the difference. -/
theorem test_sub_equal_and_vf :
    after 0x8015 (withV [(0, 7), (1, 7)] State.reset) (fun t => (t.readV 0, t.readV 15)) = some (0, 1) ∧
    after 0x8F15 (withV [(1, 5), (15, 3)] State.reset) (·.readV 15) = some 0xFE := by decide

/-- T-AL-22. -/
theorem test_shiftRight :
    after 0x8006 (withV [(0, 3)] State.reset) (fun t => (t.readV 0, t.readV 15)) = some (1, 1) := by decide

/-- T-AL-23: VY is not read. T-AL-24: X = F leaves the result. -/
theorem test_shiftRight_in_place :
    after 0x8016 (withV [(0, 2), (1, 0xFF)] State.reset) (fun t => (t.readV 0, t.readV 15)) = some (1, 0) ∧
    after 0x8F06 (withV [(15, 3)] State.reset) (·.readV 15) = some 1 := by decide

/-- T-AL-25, T-AL-26. -/
theorem test_subReverse :
    after 0x8017 (withV [(0, 10), (1, 5)] State.reset) (fun t => (t.readV 0, t.readV 15)) = some (0xFB, 0) ∧
    after 0x8017 (withV [(0, 5), (1, 10)] State.reset) (fun t => (t.readV 0, t.readV 15)) = some (5, 1) := by
  decide

/-- T-AL-27. -/
theorem test_shiftLeft :
    after 0x800E (withV [(0, 0x81)] State.reset) (fun t => (t.readV 0, t.readV 15)) = some (2, 1) := by decide

/-- T-AL-28: VY is not read. T-AL-29: X = F leaves the result. -/
theorem test_shiftLeft_in_place :
    after 0x801E (withV [(0, 0x7F), (1, 1)] State.reset) (fun t => (t.readV 0, t.readV 15)) = some (0xFE, 0) ∧
    after 0x8FFE (withV [(15, 0x81)] State.reset) (·.readV 15) = some 2 := by decide

/-! ### Index, random (T-IX, T-RN) -/

/-- T-IX-1. -/
theorem test_loadI : after 0xA2F0 State.reset (fun t => (t.i, t.pc)) = some (0x2F0, 0x202) := by decide

/-- T-IX-2: past 0xFFF, no flag. -/
theorem test_addI_past_memory :
    after 0xF31E (withV [(3, 5)] { State.reset with i := 0xFFE }) (fun t => (t.i, t.readV 15)) =
      some (0x1003, 0) := by decide

/-- T-IX-3 (D15). -/
theorem test_addI_wraps :
    after 0xF31E (withV [(3, 1)] { State.reset with i := 0xFFFF }) (·.i) = some 0 := by decide

/-- T-IX-4. -/
theorem test_loadSprite : after 0xF429 (withV [(4, 7)] State.reset) (·.i) = some 0x073 := by decide

/-- T-IX-5: only the low nibble counts. -/
theorem test_loadSprite_low_nibble : after 0xF429 (withV [(4, 0x1A)] State.reset) (·.i) = some 0x082 := by decide

/-- T-RN-1: the host's byte, masked, and used up. -/
theorem test_random :
    after 0xC30F { State.reset with rngInput := [0xB7, 0x11] } (fun t => (t.readV 3, t.rngInput, t.pc)) =
      some (7, [0x11], 0x202) := by decide

/-- T-RN-2 holds whatever the byte is, so also for the free value. -/
theorem test_random_mask_zero : ∃ t, exec (.random 3 0x00) State.reset = .next t ∧ t.readV 3 = 0 ∧
    t.rngDraws = 1 := by
  refine ⟨_, rfl, ?_, rfl⟩
  exact BitVec.and_zero

/-! ### Display (T-DR, L2.6) -/

/-- T-DR-1. -/
theorem test_clearDisplay :
    after 0x00E0 { State.reset with grid := Grid.toggle (Grid.toggle Grid.blank 0 0) 63 31 }
      (fun t => (pixelsAt t [(0, 0), (63, 31), (5, 5)], t.dirty)) = some ([false, false, false], true) := by decide

/-- T-DR-5: columns wrap at 64. -/
theorem test_draw_wraps_columns :
    after 0xD011 (withV [(0, 0x3E)] (withBytes 0x300 [0xC3] { State.reset with i := 0x300 }))
      (fun t => (t.readV 15, t.dirty, pixelsAt t [(62, 0), (63, 0), (0, 0), (3, 0), (4, 0), (5, 0), (6, 0)])) =
      some (0, true, [true, true, false, false, true, true, false]) := by decide

/-- T-DR-4 on one row of 8 set pixels: they go off and VF is the collision. -/
theorem test_draw_collides :
    after 0xD011 (withBytes 0x300 [0xFF] { State.reset with
      i := 0x300
      grid := [0, 1, 2, 3, 4, 5, 6, 7].foldl (fun g x => Grid.toggle g x 0) Grid.blank })
      (fun t => (t.readV 15, pixelsAt t [(0, 0), (7, 0), (8, 0)])) = some (1, [false, false, false]) := by decide

/-! ### Timers and keys (T-TK, L2.7) -/

/-- T-TK-1. -/
theorem test_loadDelayTimer :
    after 0xF207 { State.reset with dt := 60 } (fun t => (t.readV 2, t.dt)) = some (60, 60) := by decide

/-- T-TK-2. -/
theorem test_setDelayTimer :
    after 0xF215 (withV [(2, 5)] State.reset) (fun t => (t.dt, t.st)) = some (5, 0) := by decide

/-- T-TK-3. -/
theorem test_setSoundTimer :
    after 0xF218 (withV [(2, 2)] State.reset) (fun t => (t.dt, t.st)) = some (0, 2) := by decide

/-- T-TK-5. -/
theorem test_waitForKeyPress_stalls :
    after 0xF30A (withV [(3, 9)] { State.reset with pc := 0x210 }) (fun t => (t.readV 3, t.pc)) =
      some (9, 0x210) := by decide

/-- T-TK-7: the least of several. -/
theorem test_waitForKeyPress_least :
    after 0xF30A (withKeys [0xC, 3, 9] State.reset) (fun t => (t.readV 3, t.pc)) = some (3, 0x202) := by decide

/-! ### Bulk memory (T-BM, T-BULK, L2.8) -/

/-- T-BM-1. -/
theorem test_storeBCD :
    after 0xF133 (withV [(1, 0xFE)] { State.reset with i := 0x300 })
      (fun t => (bytesAt t [0x2FF, 0x300, 0x301, 0x302, 0x303], t.i)) = some ([0, 2, 5, 4, 0], 0x300) := by decide

/-- T-BM-6: no wrap of the address. -/
theorem test_storeBCD_no_wrap :
    faultOf 0xF133 (withV [(1, 1)] { State.reset with i := 0xFFFF }) = some (.outOfBounds (.mem 0xFFFF)) := by
  decide

/-- T-BULK-3. -/
theorem test_storeRegisters :
    after 0xF255 (withV [(0, 1), (1, 2), (2, 3), (3, 4)] { State.reset with i := 0x300 })
      (fun t => (bytesAt t [0x300, 0x301, 0x302, 0x303], t.i)) = some ([1, 2, 3, 0], 0x300) := by decide

/-- T-BM-13: the reserved region is written like any other. -/
theorem test_storeRegisters_reserved :
    after 0xF055 (withV [(0, 0x77)] { State.reset with i := 0x100 }) (fun t => bytesAt t [0x100]) =
      some [0x77] := by decide

/-- T-BULK-4. -/
theorem test_loadRegisters :
    after 0xF265 (withV [(3, 0x55)] (withBytes 0x300 [9, 8, 7, 6] { State.reset with i := 0x300 }))
      (fun t => ([0, 1, 2, 3].map t.readV, t.i)) = some ([9, 8, 7, 0x55], 0x300) := by decide

/-- T-BM-11. -/
theorem test_loadRegisters_past_memory :
    faultOf 0xF265 { State.reset with i := 0xFFE } = some (.outOfBounds (.mem 0x1000)) := by decide

/-! ### Ticks, schedule, memory form -/

/-- T-TI-2: both at 1. -/
theorem test_tick_ends_tone : ({ State.reset with dt := 1, st := 1 } : State).tick.dt = 0 ∧
    ({ State.reset with dt := 1, st := 1 } : State).tickResponse = ⟨false, true⟩ := by decide

/-- T-TI-1: zero stays zero. -/
theorem test_tick_at_zero : State.reset.tick = State.reset ∧ State.reset.tickResponse = ⟨false, false⟩ := by decide

/-- R40, R46: a scheduled `KEY` is a step of its own. -/
theorem test_step_key : (match step { State.reset with schedule := [.key 7 true, .exec] } with
    | .next t => some (t.keys[7], t.pc, t.schedule)
    | .fault _ => none
    | .refused _ => none) = some (true, 0x200, [.exec]) := by decide

/-- R60: glyph 7 and the bytes around the table. -/
theorem test_font_at_reset :
    bytesAt State.reset [0x04F, 0x050, 0x073, 0x074, 0x077, 0x09F, 0x0A0] =
      [0, 0xF0, 0xF0, 0x10, 0x40, 0x80, 0] := by decide

/-- Writing back what an unlisted address reads as removes the entry. -/
theorem test_memory_canonical :
    Memory.write (Memory.write [] 0x50 1) 0x50 0xF0 = [] ∧
    Memory.write (Memory.write [] 0x300 1) 0x200 2 = [(0x200, 2), (0x300, 1)] := by decide

/-- R210: the five codes. -/
theorem test_fault_codes : [faultCode (.decodeFailure 0), faultCode .stackOverflow, faultCode .stackUnderflow,
    faultCode (.outOfBounds (.key 16))] = [1, 2, 3, 4] ∧ refusalCode (.loadTooLarge 3585) = some 5 := by decide

/-! ### Witnesses: a state and operands that meet an obligation's hypotheses -/

theorem witness_DecodeOfEncode : (Instr.draw 15 15 15).WellFormed := by decide

theorem witness_EncodeOfDecode : decode 0x80F6 = .instr (.shiftRight 0 15) := by decide

theorem witness_DecodeFails_both_ways : decode 0x5001 = .decodeFailure 0x5001 ∧
    decode 0x5000 = .instr (.skipEqReg 0 0) ∧ failsByTable 0x5001 ∧ ¬ failsByTable 0x5000 := by
  refine ⟨by decide, by decide, ?_, ?_⟩ <;> simp [failsByTable]

theorem witness_OpcodeRowsDisjoint : (⟨0xF000, 0xD000⟩ : OpcodeRow) ∈ opcodeMap ∧
    OpcodeRow.covers ⟨0xF000, 0xD000⟩ 0xD123 = true := by decide

/-- Both boundaries of the fetch bound: 0xFFF is outside, 0xFFE executes. -/
theorem witness_FetchOutsideMemoryFaults :
    0xFFF ≤ ({ State.reset with pc := 0xFFF } : State).pc.toNat ∧
    ∃ t, execStep ({ State.reset with pc := 0xFFE } |> withBytes 0xFFE [0x12, 0x00]) = .next t :=
  ⟨by decide, _, rfl⟩

theorem witness_StepExecutesDecodedInstruction :
    let s := withBytes 0xFFE [0xF2, 0x07] { State.reset with pc := 0xFFE }
    s.pc.toNat ≤ 0xFFE ∧
    decode (BitVec.ofNat 16
      ((Memory.read s.mem s.pc.toNat).toNat * 256 + (Memory.read s.mem (s.pc.toNat + 1)).toNat)) =
        .instr (.loadDelayTimer 2) ∧ s.schedule = [] ∧
    ({ s with schedule := [.exec, .tick] } : State).schedule = .exec :: [.tick] := by decide

theorem witness_UndecodableWordFaults : State.reset.pc.toNat ≤ 0xFFE ∧
    decode State.reset.fetchWord = .decodeFailure 0x0000 := by decide

theorem witness_ScheduleIssuesTransactions :
    [Transaction.tick, .key 15 true, .dispRead, .dispAck, .rng 0xFF, .exec].all
      (fun t => ({ State.reset with schedule := [t] } : State).schedule == t :: []) = true := by decide

theorem witness_PlacedWordRunsNext : Memory.wf State.reset.mem = true ∧
    decode 0x1200 = .instr (.jump 0x200) ∧ decode 0x0000 = .decodeFailure 0x0000 := by decide

theorem witness_CompletesOrFaultsByCheck :
    checkByTable (.draw 0 0 2) { State.reset with i := 0xFFF } = some (.outOfBounds (.mem 4096)) ∧
    checkByTable (.draw 0 0 1) { State.reset with i := 0xFFF } = none ∧
    checkByTable (.draw 0 0 0) { State.reset with i := 0xFFFF } = none ∧
    checkByTable (.call 0x200) (withStack 16 0 State.reset) = some .stackOverflow ∧
    checkByTable (.call 0x200) (withStack 15 0 State.reset) = none ∧
    checkByTable .ret (withStack 0 0 State.reset) = some .stackUnderflow ∧
    checkByTable .ret (withStack 1 0 State.reset) = none := by decide

theorem witness_CompletesOrFaultsByCheck_bulk_and_keys :
    checkByTable (.storeBCD 0) { State.reset with i := 0xFFE } = some (.outOfBounds (.mem 4096)) ∧
    checkByTable (.storeBCD 0) { State.reset with i := 0xFFD } = none ∧
    checkByTable (.loadRegisters 15) { State.reset with i := 0xFF1 } = some (.outOfBounds (.mem 4096)) ∧
    checkByTable (.loadRegisters 15) { State.reset with i := 0xFF0 } = none ∧
    checkByTable (.skipKeyPressed 5) (withV [(5, 16)] State.reset) = some (.outOfBounds (.key 16)) ∧
    checkByTable (.skipKeyPressed 5) (withV [(5, 15)] State.reset) = none := by decide

theorem witness_FaultPersists : execStep State.reset = .fault (.decodeFailure 0x0000) ∧
    ∀ t ∈ [Transaction.tick, .key 1 true, .rng 3, .dispAck], t ≠ .exec := ⟨rfl, by decide⟩

theorem witness_NextPcFollowsTable : State.reset.pc.toNat ≤ 0xFFE ∧
    ∃ t, exec (.skipEqByte 15 0) State.reset = .next t := ⟨by decide, _, rfl⟩

theorem witness_RegistersFrame : (∃ t, exec (.loadRegisters 3) State.reset = .next t) ∧
    ¬ (Instr.loadRegisters 3).mayWriteV 4 := ⟨⟨_, rfl⟩, by
    rintro (h | ⟨h, -⟩ | ⟨x, h, hx⟩)
    · cases h
    · cases h
    · cases h
      exact absurd hx (by decide)⟩

theorem witness_SpecialRegistersFrame : (∃ t, exec (.storeRegisters 3) State.reset = .next t) ∧
    (Instr.storeRegisters 3).writesI = false ∧ (Instr.storeRegisters 3).usesStack = false ∧
    (Instr.storeRegisters 3).setsDt = false ∧ (Instr.storeRegisters 3).setsSt = false :=
  ⟨⟨_, rfl⟩, by decide⟩

theorem witness_DisplayFrame : (∃ t, exec .clearDisplay State.reset = .next t) ∧
    Instr.clearDisplay.writesGrid = true ∧ (∃ t, exec (.addI 0) State.reset = .next t) ∧
    (Instr.addI 0).writesGrid = false := ⟨⟨_, rfl⟩, rfl, ⟨_, rfl⟩, rfl⟩

theorem witness_KeysReadOnly : (∃ t, exec (.waitForKeyPress 0) State.reset = .next t) ∧
    (Instr.random 0 1).readsKeys = false := ⟨⟨_, rfl⟩, rfl⟩

theorem witness_UnreadState : (Instr.draw 0 0 15).usesStack = false ∧ Instr.clearDisplay.writesGrid = true ∧
    (Instr.setSoundTimer 0).setsSt = true := by decide

/-- Just below and just past the stored bytes; every address for a form that stores nothing. -/
theorem witness_MemoryFrame :
    let s := { State.reset with i := 0x300 }
    (∃ t, exec (.storeBCD 0) s = .next t) ∧ (0x2FF < s.base ∨ s.base + (Instr.storeBCD 0).storeCount ≤ 0x2FF) ∧
    (0x303 < s.base ∨ s.base + (Instr.storeBCD 0).storeCount ≤ 0x303) ∧
    (0x300 < s.base ∨ s.base + (Instr.loadRegisters 0).storeCount ≤ 0x300) := ⟨⟨_, rfl⟩, by decide⟩

theorem witness_HostSideFrame : (∃ t, exec (.call 0x300) State.reset = .next t) ∧
    (Instr.call 0x300).drawsRandom = false := ⟨⟨_, rfl⟩, rfl⟩

theorem witness_JumpSetsPc : (0x200 : Addr12).toNat = State.reset.pc.toNat ∧
    ∃ t, exec (.jump 0xFFF) State.reset = .next t := ⟨by decide, _, rfl⟩

theorem witness_CallPushesReturnAddress : (withStack 15 0x202 State.reset).sp.val < 16 ∧
    (withStack 0 0x202 State.reset).sp.val < 16 ∧ (withStack 16 0x202 State.reset).sp.val = 16 := by decide

theorem witness_ReturnPopsLastEntry : 0 < (withStack 1 0xFFF State.reset).sp.val ∧
    0 < (withStack 16 0xFFF State.reset).sp.val ∧ 0xFFF ≤ (withStack 16 0xFFF State.reset).stack[15].toNat ∧
    (withStack 0 0xFFF State.reset).sp.val = 0 := by decide

theorem witness_KeySkips : ((withV [(5, 15)] State.reset).readV 5).toNat < 16 ∧
    16 ≤ ((withV [(5, 16)] State.reset).readV 5).toNat ∧ 16 ≤ ((withV [(5, 255)] State.reset).readV 5).toNat := by
  decide

theorem witness_flag_clauses_x_is_and_is_not_vf : (14 : Reg) ≠ 15 ∧ ¬ (15 : Reg) ≠ 15 := by decide

theorem witness_RandomMasksOneByte : ({ State.reset with rngInput := [0xB7] } : State).rngInput = 0xB7 :: [] ∧
    State.reset.rngInput = [] := by decide

theorem witness_KeyWaitTakesLeastKey : (withKeys [15] State.reset).keys[15] = true ∧
    (∀ j : Fin 16, j.val < 15 → (withKeys [15] State.reset).keys[j.val] = false) ∧
    (withKeys [0, 15] State.reset).keys[0] = true := by decide

theorem witness_KeyWaitStallsInPlace : ∀ k : Fin 16, State.reset.keys[k.val] = false := by decide

/-- A full sprite ending at the last byte of memory, and no rows at an I outside memory. -/
theorem witness_DrawTogglesSpriteCells :
    (15 < 16 ∧ ({ State.reset with i := 0xFF1 } : State).i.toNat + 15 ≤ 4096) ∧
    (0 < 16 ∧ (0 = 0 ∨ ({ State.reset with i := 0xFFFF } : State).i.toNat + 0 ≤ 4096)) := by decide

/-- The last I whose three bytes are in memory, and the next one. -/
theorem witness_StoreBcdWritesDigits : Memory.wf State.reset.mem = true ∧
    ({ State.reset with i := 0xFFD } : State).i.toNat + 3 ≤ 4096 ∧
    4096 < ({ State.reset with i := 0xFFE } : State).i.toNat + 3 := by decide

/-- X = F and X = 0, each at the last I that fits and at the next one. -/
theorem witness_StoreRegistersWritesBlock : Memory.wf State.reset.mem = true ∧
    ({ State.reset with i := 0xFF0 } : State).i.toNat + (15 : Reg).val + 1 ≤ 4096 ∧
    4096 < ({ State.reset with i := 0xFF1 } : State).i.toNat + (15 : Reg).val + 1 ∧
    ({ State.reset with i := 0xFFF } : State).i.toNat + (0 : Reg).val + 1 ≤ 4096 ∧
    4096 < ({ State.reset with i := 0x1000 } : State).i.toNat + (0 : Reg).val + 1 := by decide

/-- The same edges; with X = 3, register 4 is above the block. -/
theorem witness_LoadRegistersReadsBlock :
    ({ State.reset with i := 0xFF0 } : State).i.toNat + (15 : Reg).val + 1 ≤ 4096 ∧
    4096 < ({ State.reset with i := 0xFF1 } : State).i.toNat + (15 : Reg).val + 1 ∧
    ({ State.reset with i := 0xFFC } : State).i.toNat + (3 : Reg).val + 1 ≤ 4096 ∧
    (3 : Reg).val < (4 : Reg).val := by decide

/-- V0..V3 overwritten between the store and the load, the rest kept. -/
theorem witness_BlockRoundTrips_store_load :
    let s := withV [(0, 1), (4, 9)] { State.reset with i := 0x300 }
    let v : Vector Byte 16 := (s.v.set 0 0xAA).set 3 0xBB
    Memory.wf s.mem = true ∧ (∀ k : Reg, (3 : Reg).val < k.val → v[k.val] = s.readV k) ∧
    ∃ t u, exec (.storeRegisters 3) s = .next t ∧ exec (.loadRegisters 3) { t with v := v } = .next u :=
  ⟨by decide, by decide, _, _, rfl, rfl⟩

theorem witness_BlockRoundTrips_load_store : Memory.wf State.reset.mem = true ∧
    (∀ k : Reg, (15 : Reg).val < k.val → State.reset.v[k.val] = State.reset.readV k) ∧
    ∃ t u, exec (.loadRegisters 15) { State.reset with i := 0x50 } = .next t ∧
      exec (.storeRegisters 15) t = .next u := ⟨by decide, by decide, _, _, rfl, rfl⟩

theorem witness_StoredBytesAreFetched :
    Memory.wf State.reset.mem = true ∧
    (∃ t, exec (.storeRegisters 15) { State.reset with i := 0xFF0 } = .next t) ∧
    (15 : Reg).val = (14 : Reg).val + 1 ∧ (15 : Reg).val ≤ (15 : Reg).val ∧
    (0xFFE : Word).toNat = (0xFF0 : Word).toNat + (14 : Reg).val := ⟨by decide, ⟨_, rfl⟩, by decide⟩

/-- A jump to itself at the reset PC, both timers running. -/
def selfJumping : State := withBytes 0x200 [0x12, 0x00] { State.reset with dt := 7, st := 9 }

/-- Two steps of the jump to itself. -/
theorem witness_ExecuteStepsLeaveTimers : StepsWithoutTimerWrites 2 selfJumping selfJumping := by
  have decoded : decode selfJumping.fetchWord = .instr (.jump 0x200) := by decide
  have stays : execStep selfJumping = .next selfJumping := by
    have back : addrOperand 0x200 = selfJumping.pc := by decide
    rw [execStep_of_decode (by decide) decoded]
    exact congrArg (fun w => Host.Outcome.next (selfJumping.setPc w)) back
  have harmless : ∀ i, decode selfJumping.fetchWord = .instr i → i.setsDt = false ∧ i.setsSt = false := by
    intro i h
    rw [decoded] at h
    cases h
    exact ⟨rfl, rfl⟩
  exact .more 1 _ _ _ stays harmless (.more 0 _ _ _ stays harmless (.none _))

/-- The largest image accepted and the smallest refused. -/
theorem witness_LoadPlacesImage : Memory.wf State.reset.mem = true ∧
    (List.replicate 3584 (1 : Byte)).length ≤ 3584 ∧ 3584 < (List.replicate 3585 (1 : Byte)).length ∧
    ([] : List Byte).length ≤ 3584 := by
  rw [List.length_replicate, List.length_replicate]
  decide

theorem witness_StackDiscipline : State.reset.sp.val = 0 ∧ (List.replicate 16 (0x200 : Addr12)).length = 16 := by
  decide

theorem witness_SelfJumpIsFixedPoint : selfJumping.atSelfJump := by
  refine ⟨by decide, by decide⟩

/-- A state that no run reaches also meets the invariant. -/
theorem witness_StepKeepsInvariant : State.reset.Inv ∧ (∃ t, step (State.reset.withFetchWord 16 0x6001) = .next t) ∧
    State.Inv { State.reset with pc := 0x10FE, sp := 3 } :=
  ⟨⟨by decide, by decide, by decide⟩, ⟨_, rfl⟩, ⟨by decide, by decide, by decide⟩⟩

/-- A booted image under a schedule, then one step of it. -/
theorem witness_ReachableStatesMeetInvariant :
    ∃ s t, Reachable s ∧ step s = .next t ∧ Reachable t := by
  have booted : Reachable _ := .booted [0x12, 0x00] _ [.tick] [7] 0 rfl
  exact ⟨_, _, booted, rfl, .stepped _ _ booted rfl⟩

end Sys2Proof.Tests
end

section
/-! SUPPORT. What each instruction leaves unchanged and what it does not read (10_state.md R22–R34), for the family
10_state.md: the effect of an instruction as one record equation, then the frames and the noninterference of
`exec` read off it. -/

namespace Sys2Proof.Machine

/-! ### The two effects that branch, as one record update -/

/-- `Random` moves V[X], PC and the source (R171, R170). -/
theorem effect_random (x : Reg) (nn : Byte) (s : State) :
    effect (.random x nn) s =
      { s with
        v := s.v.set x.val (s.rndByte &&& nn) x.isLt
        pc := s.pc + 2
        rngInput := s.rngInput.tail
        rngDraws := if s.rngInput = [] then s.rngDraws + 1 else s.rngDraws } := by
  rw [← State.rndNext_rngInput, ← State.rndNext_rngDraws]
  simp only [effect, State.rndNext]
  split <;> rfl

/-- `WaitForKeyPress` moves V[X] and PC where a key is pressed, and nothing where none is (R189, R108). -/
theorem effect_waitForKeyPress (x : Reg) (s : State) :
    effect (.waitForKeyPress x) s =
      { s with
        v := s.leastKey.elim s.v fun k => s.v.set x.val (BitVec.ofNat 8 k.val) x.isLt
        pc := s.leastKey.elim s.pc fun _ => s.pc + 2 } := by
  simp only [effect]
  cases s.leastKey <;> rfl

/-! ### What an instruction leaves unchanged -/

/-- Beside the registers, PC and memory, an effect moves only the fields the rules name the instruction for: I
(R27), S and SP (R28), DT and ST (R30), the grid with DIRTY set (R32, R34), the random source (R170). -/
theorem effect_frame (i : Instr) (s : State) :
    effect i s =
      { s with
        v := (effect i s).v
        pc := (effect i s).pc
        mem := (effect i s).mem
        i := if i.writesI = true then (effect i s).i else s.i
        stack := if i.usesStack = true then (effect i s).stack else s.stack
        sp := if i.usesStack = true then (effect i s).sp else s.sp
        dt := if i.setsDt = true then (effect i s).dt else s.dt
        st := if i.setsSt = true then (effect i s).st else s.st
        grid := if i.writesGrid = true then (effect i s).grid else s.grid
        dirty := if i.writesGrid = true then true else s.dirty
        rngInput := if i.drawsRandom = true then (effect i s).rngInput else s.rngInput
        rngDraws := if i.drawsRandom = true then (effect i s).rngDraws else s.rngDraws } := by
  cases i
  case random x nn => rw [effect_random]; rfl
  case waitForKeyPress x => rw [effect_waitForKeyPress]; rfl
  all_goals rfl

/-- A register an instruction may not write is not its destination. -/
theorem ne_of_destX {i : Instr} {r x : Reg} (h : ¬ i.mayWriteV r) (hx : i.destX = some x) : r ≠ x := by
  rintro rfl
  exact h (.inl hx)

/-- A register a flag-writing instruction may not write is not VF. -/
theorem ne_vf_of_writesFlag {i : Instr} {r : Reg} (h : ¬ i.mayWriteV r) (hf : i.writesFlag = true) : r ≠ vf :=
  fun hr => h (.inr (.inl ⟨hf, hr⟩))

/-- The flag-writing shape leaves every register but V[X] and VF. -/
theorem State.readV_flagThenResult_ne {r x : Reg} (hx : r ≠ x) (hf : r ≠ vf) (s : State) (flag : Bool) (b : Byte) :
    (s.flagThenResult x flag b).readV r = s.readV r := by
  rw [State.readV_flagThenResult, if_neg hx, if_neg hf]

/-- An effect leaves every register the rules do not name it for. -/
theorem readV_effect_of_not_mayWriteV {i : Instr} {r : Reg} (h : ¬ i.mayWriteV r) (s : State) :
    (effect i s).readV r = s.readV r := by
  cases i
  case loadByte | addByte | move | or | and | xor | loadDelayTimer =>
    exact State.readV_writeV_ne (ne_of_destX h rfl) s _
  case addReg | sub | shiftRight | subReverse | shiftLeft =>
    exact State.readV_flagThenResult_ne (ne_of_destX h rfl) (ne_vf_of_writesFlag h rfl) s _ _
  case draw x y n => exact State.readV_writeV_ne (ne_vf_of_writesFlag h rfl) (s.setGrid _) _
  case random x nn =>
    exact (State.readV_writeV_ne (ne_of_destX h rfl) s.rndNext _).trans (s.readV_rndNext r)
  case waitForKeyPress x =>
    simp only [effect]
    cases s.leastKey with
    | none => rfl
    | some k => exact State.readV_writeV_ne (ne_of_destX h rfl) s _
  case loadRegisters x =>
    have above : ¬ r.val ≤ x.val := fun hle => h (.inr (.inr ⟨x, rfl, hle⟩))
    exact (State.readV_loadV s x r _).trans (if_neg above)
  all_goals rfl

/-! ### The next PC -/

theorem addrOperand_toNat (nnn : Addr12) : (addrOperand nnn).toNat = nnn.toNat := by
  have := nnn.isLt
  simp only [addrOperand, BitVec.truncate_eq_setWidth, BitVec.toNat_setWidth]
  omega

theorem State.wideV_toNat (s : State) (x : Reg) : (s.wideV x).toNat = (s.readV x).toNat := by
  have := (s.readV x).isLt
  simp only [State.wideV, BitVec.truncate_eq_setWidth, BitVec.toNat_setWidth]
  omega

/-- Where an instruction can be fetched, PC + 2 does not wrap. -/
theorem State.advance_pc_toNat {s : State} (h : s.pc.toNat ≤ 0xFFE) : s.advance.pc.toNat = s.pc.toNat + 2 :=
  BitVec.toNat_add_of_lt (show s.pc.toNat + 2 < 2 ^ 16 by omega)

/-- A skip there goes to PC + 4 where its condition holds, else to PC + 2 (R130). -/
theorem State.skipIf_pc_toNat {s : State} (h : s.pc.toNat ≤ 0xFFE) (c : Bool) :
    (s.skipIf c).pc.toNat = if c = true then s.pc.toNat + 4 else s.pc.toNat + 2 := by
  cases c
  · exact State.advance_pc_toNat h
  · exact BitVec.toNat_add_of_lt (show s.pc.toNat + 4 < 2 ^ 16 by omega)

/-- There is a least pressed key exactly when some key is pressed. -/
theorem State.leastKey_isSome {s : State} : s.leastKey.isSome = true ↔ ∃ k : Fin 16, s.keys[k.val] = true := by
  simp [State.leastKey, List.find?_isSome]

/-- The effect of an instruction that passes its check sets PC as R25 says. -/
theorem effect_pc_toNat {i : Instr} {s : State} (hp : s.pc.toNat ≤ 0xFFE) (hc : check i s = none) :
    (effect i s).pc.toNat = nextPcByTable i s := by
  cases i
  case ret =>
    have nonempty : 0 < s.sp.val := State.underflowFault_eq_none.mp hc
    simp only [effect, nextPcByTable, State.setPc_pc, State.top_eq nonempty, dif_pos nonempty]
  case jump nnn | call nnn => exact addrOperand_toNat nnn
  case jumpPlusZero nnn =>
    simp only [effect, nextPcByTable, State.setPc_pc, BitVec.toNat_add, addrOperand_toNat, State.wideV_toNat]
  case skipEqByte | skipNeByte | skipEqReg | skipNeReg | skipKeyPressed | skipKeyNotPressed =>
    simp only [effect, nextPcByTable, State.skipIf_pc_toNat hp, decide_eq_true_eq, Bool.not_eq_true']
  case waitForKeyPress x =>
    simp only [effect_waitForKeyPress, nextPcByTable, ← State.leastKey_isSome]
    cases s.leastKey with
    | none => rfl
    | some k => exact State.advance_pc_toNat hp
  case random x nn =>
    rw [effect_random]
    exact State.advance_pc_toNat hp
  all_goals exact State.advance_pc_toNat hp

/-! ### What an instruction does not read -/

/-- Where the check does not see a change of state and the effect carries it through, the instruction has the same
outcome with the change carried through. -/
theorem exec_eq_mapNext {i : Instr} {s s' : State} {f : State → State} (hc : check i s' = check i s)
    (he : effect i s' = f (effect i s)) : exec i s' = mapNext f (exec i s) := by
  rw [exec_eq_guarded, exec_eq_guarded, hc, he]
  cases check i s <;> rfl

/-- An instruction that does not read K carries any other key state through (R33). -/
theorem effect_with_keys {i : Instr} (h : i.readsKeys = false) (s : State) (k : Vector Bool 16) :
    effect i { s with keys := k } = { effect i s with keys := k } := by
  cases i
  case skipKeyPressed | skipKeyNotPressed | waitForKeyPress => cases h
  case random x nn => rw [effect_random, effect_random]; rfl
  all_goals rfl

/-- Every instruction carries another DIRTY through, unless it sets it (R34). -/
theorem effect_with_dirty (i : Instr) (s : State) (d : Bool) :
    effect i { s with dirty := d } =
      if i.writesGrid = true then effect i s else { effect i s with dirty := d } := by
  cases i
  case random x nn => rw [effect_random, effect_random]; rfl
  case waitForKeyPress x => rw [effect_waitForKeyPress, effect_waitForKeyPress]; rfl
  all_goals rfl

/-- Every instruction carries another ST through, unless it writes it (R30). -/
theorem effect_with_st (i : Instr) (s : State) (b : Byte) :
    effect i { s with st := b } = if i.setsSt = true then effect i s else { effect i s with st := b } := by
  cases i
  case random x nn => rw [effect_random, effect_random]; rfl
  case waitForKeyPress x => rw [effect_waitForKeyPress, effect_waitForKeyPress]; rfl
  all_goals rfl

/-- An instruction other than `Call` and `Return` carries another stack and depth through (R28). -/
theorem effect_with_stack {i : Instr} (h : i.usesStack = false) (s : State) (st : Vector Word 16) (sp : Fin 17) :
    effect i { s with stack := st, sp := sp } = { effect i s with stack := st, sp := sp } := by
  cases i
  case call | ret => cases h
  case random x nn => rw [effect_random, effect_random]; rfl
  case waitForKeyPress x => rw [effect_waitForKeyPress, effect_waitForKeyPress]; rfl
  all_goals rfl

/-- A check reads V, I and SP, and SP only for `Call` and `Return`. -/
theorem check_congr {i : Instr} {s s' : State} (hv : s'.v = s.v) (hi : s'.i = s.i)
    (hsp : i.usesStack = true → s'.sp = s.sp) : check i s' = check i s := by
  cases i
  case call | ret => simp only [check, State.overflowFault, State.underflowFault, hsp rfl]
  case draw | storeBCD | storeRegisters | loadRegisters => simp only [check, State.base, hi]
  case skipKeyPressed x | skipKeyNotPressed x => simp only [check, State.readV_congr hv x]
  all_goals rfl

/-! ### The schedule -/

theorem step_of_schedule_nil {s : State} (h : s.schedule = []) : step s = execStep s := by
  unfold step runNext
  rw [h]

theorem step_of_schedule_cons {s : State} {t : Transaction} {ts : List Transaction} (h : s.schedule = t :: ts) :
    step s = perform t { s with schedule := ts } := by
  unfold step runNext
  rw [h]

/-! ### The state after reset -/

/-- Byte c of glyph d stands in the font region at reset (R60). -/
theorem Font.resetByte_glyph {d c : Nat} (hd : d < 16) (hc : c < 5) :
    Font.resetByte (0x050 + 5 * d + c) = (Font.glyphs.getD d []).getD c 0 := by
  have glyph : (0x050 + 5 * d + c - 0x050) / 5 = d := by omega
  have byte : (0x050 + 5 * d + c - 0x050) % 5 = c := by omega
  simp only [Font.resetByte, Font.glyphAddr, Font.fontBase, Config.glyphBytes, glyph, byte]
  exact if_pos (by omega)

/-- Outside the font region memory is 0 at reset (R37; D14). -/
theorem Font.resetByte_outside {a : Nat} (h : a < 0x050 ∨ 0x0A0 ≤ a) : Font.resetByte a = 0 := by
  simp only [Font.resetByte, Font.glyphAddr, Font.fontBase, Config.glyphBytes]
  exact if_neg (by omega)

@[simp] theorem State.reset_readV (r : Reg) : State.reset.readV r = 0 := Vector.getElem_replicate _

@[simp] theorem State.reset_stack (j : Fin 16) : State.reset.stack[j.val] = 0 := Vector.getElem_replicate _

@[simp] theorem State.reset_keys (k : Key) : State.reset.keys[k.val] = false := Vector.getElem_replicate _

/-! ### The obligations of the family -/

/-- Settles O14: the effect's PC, instruction by instruction. -/
theorem nextPcFollowsTable : Obligations.NextPcFollowsTable := by
  intro i s t hp h
  obtain ⟨passed, rfl⟩ := exec_eq_next.mp h
  exact effect_pc_toNat hp passed

/-- Settles O15: the registers of the effect, instruction by instruction. -/
theorem registersFrame : Obligations.RegistersFrame := by
  intro i s t r h hr
  obtain ⟨-, rfl⟩ := exec_eq_next.mp h
  exact readV_effect_of_not_mayWriteV hr s

/-- Settles O16, from the frame of the effect. -/
theorem specialRegistersFrame : Obligations.SpecialRegistersFrame := by
  intro i s t h
  obtain ⟨-, rfl⟩ := exec_eq_next.mp h
  have frame := effect_frame i s
  refine ⟨fun hI => ?_, fun hS => ⟨?_, ?_⟩, fun hDt => ?_, fun hSt => ?_⟩
  · simpa [hI] using congrArg State.i frame
  · simpa [hS] using congrArg State.stack frame
  · simpa [hS] using congrArg State.sp frame
  · simpa [hDt] using congrArg State.dt frame
  · simpa [hSt] using congrArg State.st frame

/-- Settles O17, from the frame of the effect. -/
theorem displayFrame : Obligations.DisplayFrame := by
  intro i s t h
  obtain ⟨-, rfl⟩ := exec_eq_next.mp h
  have frame := effect_frame i s
  refine ⟨fun hG => ⟨?_, ?_⟩, fun hG => ?_⟩
  · simpa [hG] using congrArg State.grid frame
  · simpa [hG] using congrArg State.dirty frame
  · simpa [hG] using congrArg State.dirty frame

/-- Settles O18: the frame of the effect, then the key state carried through check and effect. -/
theorem keysReadOnly : Obligations.KeysReadOnly := by
  constructor
  · intro i s t h
    obtain ⟨-, rfl⟩ := exec_eq_next.mp h
    simpa using congrArg State.keys (effect_frame i s)
  · intro i s k h
    exact exec_eq_mapNext (check_congr rfl rfl fun _ => rfl) (effect_with_keys h s k)

/-- Settles O19: each field carried through check and effect. -/
theorem unreadState : Obligations.UnreadState := by
  intro i s d b st sp
  refine ⟨?_, ?_, fun h => ?_⟩
  · exact exec_eq_mapNext (check_congr rfl rfl fun _ => rfl) (effect_with_dirty i s d)
  · exact exec_eq_mapNext (check_congr rfl rfl fun _ => rfl) (effect_with_st i s b)
  · have noStack : i.usesStack = true → sp = s.sp := fun h' => absurd (h.symm.trans h') Bool.false_ne_true
    exact exec_eq_mapNext (check_congr rfl rfl noStack) (effect_with_stack h s st sp)

/-- Settles O10: a step performs the head of the schedule, or `EXEC` where there is none. -/
theorem scheduleIssuesTransactions : Obligations.ScheduleIssuesTransactions := by
  intro s ts k p b
  exact ⟨step_of_schedule_cons, step_of_schedule_cons, step_of_schedule_cons, step_of_schedule_cons,
    step_of_schedule_cons, step_of_schedule_cons, step_of_schedule_nil⟩

/-- Settles O49: the key state after `KEY` is the old one with one entry set. -/
theorem keyTransactionSetsOneKey : Obligations.KeyTransactionSetsOneKey := by
  intro k p s
  refine ⟨s.setKey k p, rfl, ?_, fun j hj => ?_, rfl⟩
  · exact Vector.getElem_set_self k.isLt
  · exact Vector.getElem_set_ne k.isLt j.isLt fun e => hj (Fin.ext e.symm)

/-- Settles O50: by what `perform` and `respond` say of the two transactions. -/
theorem displayTransactions : Obligations.DisplayTransactions :=
  fun _ => ⟨rfl, rfl, rfl⟩

/-- Settles O54: each field as `State.reset` gives it; memory, with nothing listed, reads as the reset contents. -/
theorem resetConfiguration : Obligations.ResetConfiguration :=
  ⟨rfl, rfl, rfl, rfl, Grid.pixel_blank, State.reset_readV, rfl, State.reset_stack, State.reset_keys, rfl,
    fun _ _ => Font.resetByte_glyph, fun _ => Font.resetByte_outside, rfl, rfl⟩

/-- Settles O55: the empty list is canonical, PC is 0x200, and every stack entry is 0. -/
theorem resetMeetsInvariant : Obligations.ResetMeetsInvariant where
  memory := rfl
  pc := by decide
  stack j := by simp

end Sys2Proof.Machine
end

section
/-! SUPPORT. The family 20_memory.md: the bytes an instruction stores (R50, R195), what is fetched from bytes just
written (R52, R63), the word `withFetchWord` places, and the invariant that every step keeps. -/

namespace Sys2Proof.Machine

/-! ### The bytes an instruction stores -/

/-- The bytes an instruction stores from I on: the digits of `StoreBCD`, the block of `StoreRegisters`, none for
any other (R50, R196, R197). -/
def storedBytes (i : Instr) (s : State) : List Byte :=
  match i with
  | .storeBCD x => bcdBytes (s.readV x)
  | .storeRegisters x => s.regBytes x
  | _ => []

/-- All an effect does to memory is to write the instruction's bytes from I on. -/
theorem effect_mem (i : Instr) (s : State) :
    (effect i s).mem = Memory.writeBytes s.mem s.base (storedBytes i s) := by
  cases i
  case random x nn => rw [effect_random]; rfl
  case waitForKeyPress x => rw [effect_waitForKeyPress]; rfl
  all_goals rfl

theorem length_storedBytes (i : Instr) (s : State) : (storedBytes i s).length = i.storeCount := by
  cases i
  case storeRegisters x => exact State.length_regBytes s x
  all_goals rfl

/-- An instruction that stores bytes and passes its check stores them inside memory (R55). -/
theorem store_in_memory {i : Instr} {s : State} (hc : check i s = none) :
    i.storeCount = 0 ∨ s.base + i.storeCount ≤ Config.memSize := by
  cases i
  case storeBCD x => exact boundsFault_eq_none.mp hc
  case storeRegisters x => exact boundsFault_eq_none.mp hc
  all_goals exact .inl rfl

/-- An effect whose check passes keeps memory canonical. -/
theorem wf_effect_mem {i : Instr} {s : State} (hm : Memory.wf s.mem = true) (hc : check i s = none) :
    Memory.wf (effect i s).mem = true := by
  have fits := store_in_memory hc
  rw [← length_storedBytes i s] at fits
  rw [effect_mem]
  rcases fits with none_stored | inside
  · rwa [List.length_eq_zero_iff.mp none_stored]
  · exact Memory.wf_writeBytes hm inside

/-! ### Fetching bytes just written -/

/-- Two neighbours of the bytes written read back as one big-endian word (R52). -/
theorem Memory.readWord_writeBytes {bs : List Byte} {m : Memory} {a k : Nat} (hm : Memory.wf m = true)
    (h : a + bs.length ≤ Config.memSize) (hk : k + 1 < bs.length) :
    Memory.readWord (Memory.writeBytes m a bs) (a + k) = wordOfBytes (bs.getD k 0) (bs.getD (k + 1) 0) := by
  rw [Memory.readWord, Nat.add_assoc, Memory.read_writeBytes_inside hm h (Nat.lt_of_succ_lt hk),
    Memory.read_writeBytes_inside hm h hk]

/-! ### The placed word -/

theorem tableWord_toNat (w : Word) : tableWord 16 w.toNat = w := by
  rw [tableWord, Nat.mod_eq_of_lt w.isLt, BitVec.ofNat_toNat, BitVec.setWidth_eq]

/-- The placed word stands where it can be fetched (R102). -/
theorem State.placeWord_pc_le (s : State) (w : Word) : (s.placeWord w).pc.toNat ≤ 0xFFE := by
  simp only [State.placeWord]
  split
  case isTrue fits => exact Nat.le_of_lt_succ (Nat.lt_of_succ_lt_succ fits)
  case isFalse => decide

/-- What the next fetch reads there is that word. -/
theorem State.placeWord_fetchWord {s : State} (hm : Memory.wf s.mem = true) (w : Word) :
    (s.placeWord w).fetchWord = w := by
  have room : (s.placeWord w).pc.toNat + 2 ≤ Config.memSize := Nat.add_le_add_right (s.placeWord_pc_le w) 2
  exact (Memory.readWord_writeBytes (bs := [(bytesOfWord w).1, (bytesOfWord w).2]) (k := 0) hm room
    (Nat.lt_succ_self 1)).trans (wordOfBytes_bytesOfWord w)

/-! ### The invariant -/

/-- The invariant speaks of memory, PC and the stack entries only. -/
theorem State.Inv.congr {s t : State} (h : s.Inv) (hm : t.mem = s.mem) (hp : t.pc = s.pc)
    (hs : t.stack = s.stack) : t.Inv where
  memory := hm ▸ h.memory
  pc := hp ▸ h.pc
  stack := hs ▸ h.stack

/-- No row of R25's table leads past 0x10FE, the target of `JumpPlusZero` with NNN = 0xFFF and V0 = 0xFF. -/
theorem nextPcByTable_le {s : State} (h : s.Inv) (hp : s.pc.toNat ≤ 0xFFE) (i : Instr) :
    nextPcByTable i s ≤ 0x10FE := by
  cases i
  case ret =>
    simp only [nextPcByTable]
    split
    · exact Nat.le_trans (h.stack ⟨s.sp.val - 1, by omega⟩) (by decide)
    · exact Nat.zero_le _
  case jump nnn | call nnn =>
    have := nnn.isLt
    simp only [nextPcByTable]
    omega
  case jumpPlusZero nnn =>
    have := nnn.isLt
    have := (s.readV 0).isLt
    simp only [nextPcByTable]
    omega
  case skipEqByte | skipNeByte | skipEqReg | skipNeReg | skipKeyPressed | skipKeyNotPressed | waitForKeyPress =>
    simp only [nextPcByTable]
    split <;> omega
  all_goals
    simp only [nextPcByTable]
    omega

/-- The one entry an effect may write is the return address PC + 2 of `Call` (R123). -/
theorem effect_stack_le {s : State} (h : s.Inv) (hp : s.pc.toNat ≤ 0xFFE) (i : Instr) (j : Fin 16) :
    (effect i s).stack[j.val].toNat ≤ 0x1000 := by
  cases hu : i.usesStack
  case false =>
    have kept : (effect i s).stack = s.stack := by simpa [hu] using congrArg State.stack (effect_frame i s)
    simpa only [kept] using h.stack j
  case true =>
    cases i
    case ret => exact h.stack j
    case call nnn =>
      have pushed : (s.pc + 2).toNat = s.pc.toNat + 2 := State.advance_pc_toNat hp
      simp only [effect, State.setPc_stack, State.push_stack_get]
      split
      · omega
      · exact h.stack j
    all_goals cases hu

/-- Every instruction that completes at a fetchable PC keeps the invariant. -/
theorem exec_keeps_inv {i : Instr} {s t : State} (h : s.Inv) (hp : s.pc.toNat ≤ 0xFFE)
    (he : exec i s = .next t) : t.Inv := by
  obtain ⟨passed, rfl⟩ := exec_eq_next.mp he
  exact {
    memory := wf_effect_mem h.memory passed
    pc := effect_pc_toNat hp passed ▸ nextPcByTable_le h hp i
    stack := effect_stack_le h hp i }

theorem execStep_keeps_inv {s t : State} (h : s.Inv) (he : execStep s = .next t) : t.Inv := by
  obtain ⟨hp, i, -, executed⟩ := execStep_eq_next he
  exact exec_keeps_inv h hp executed

/-- Every transaction keeps the invariant: `EXEC` by the execute step, the others because they leave memory, PC
and the stack alone (R42–R46). -/
theorem perform_keeps_inv {t : Transaction} {s s' : State} (h : s.Inv) (he : perform t s = .next s') : s'.Inv := by
  cases t
  case exec => exact execStep_keeps_inv h he
  all_goals
    cases he
    exact h.congr rfl rfl rfl

/-! ### The obligations of the family -/

/-- Settles O56: by what a step can do, an execute step or the first transaction of the schedule. -/
theorem stepKeepsInvariant : Obligations.StepKeepsInvariant := by
  intro s t h he
  rcases step_cases s with ⟨-, executes⟩ | ⟨tr, ts, -, performs⟩
  · exact execStep_keeps_inv h (executes ▸ he)
  · exact perform_keeps_inv (h.congr rfl rfl rfl : ({ s with schedule := ts } : State).Inv) (performs ▸ he)

/-- Settles O11: with the schedule emptied the step is an execute step, and it fetches the placed word. -/
theorem placedWordRunsNext : Obligations.PlacedWordRunsNext := by
  intro s w hm
  have steps : step (s.placeWord w) = execStep (s.placeWord w) := step_of_schedule_nil rfl
  have fetched := State.placeWord_fetchWord hm w
  rw [State.withFetchWord, tableWord_toNat, steps]
  constructor
  · intro i hd
    exact execStep_of_decode (s.placeWord_pc_le w) (fetched.symm ▸ hd)
  · intro w' hd
    obtain rfl := decodeFailure_carries hd
    exact execStep_of_decodeFailure (s.placeWord_pc_le w') (fetched.symm ▸ hd)

/-- Settles O20: an effect writes the stored bytes and no byte outside them. -/
theorem memoryFrame : Obligations.MemoryFrame := by
  intro i s t a he outside
  obtain ⟨-, rfl⟩ := exec_eq_next.mp he
  rw [effect_mem]
  exact Memory.read_writeBytes_outside (by rwa [length_storedBytes])

/-- Settles O45: the word at I + k is made of bytes k and k + 1 of the stored block. -/
theorem storedBytesAreFetched : Obligations.StoredBytesAreFetched := by
  intro x k k' s t pc hm he hk hle hpc
  obtain ⟨passed, rfl⟩ := exec_eq_next.mp he
  have len := s.length_regBytes x
  have inside : s.base + (s.regBytes x).length ≤ Config.memSize := by
    rw [len]
    exact (store_in_memory passed).resolve_left (Nat.succ_ne_zero _)
  have fetched : ({ effect (.storeRegisters x) s with pc := pc } : State).fetchWord =
      wordOfBytes ((s.regBytes x).getD k.val 0) ((s.regBytes x).getD (k.val + 1) 0) := by
    rw [State.fetchWord, hpc]
    exact Memory.readWord_writeBytes hm inside (by omega)
  rw [fetched, ← hk, s.getD_regBytes x k (by omega), s.getD_regBytes x k' hle, wordOfBytes_toNat]

end Sys2Proof.Machine
end

section
/-! SUPPORT. The family 30_encoding.md: decoding and encoding undo each other (R71, R78), the row of the opcode
map a word decodes into (R77, R78), and the words that fail, family by family (R79). -/

namespace Sys2Proof

open Machine

theorem opField_lt (w : Word) : opField w < 16 := (w.extractLsb' 12 4).isLt

theorem nField_lt (w : Word) : nField w < 16 := (w.extractLsb' 0 4).isLt

/-! ### Decoding an opcode -/

/-- The decoder reads back from a packed opcode what the encoder put there, format by format. -/
theorem decode_encode {i : Instr} (h : i.WellFormed) : decode (encode i) = .instr i := by
  cases i
  case clearDisplay | ret => rfl
  case jump | call | loadI | jumpPlusZero => simp [encode, decode]
  case skipEqByte | skipNeByte | loadByte | addByte | random => simp [encode, decode]
  case skipEqReg | skipNeReg => simp [encode, decode]
  case draw x y n =>
    have hn : n % 16 = n := Nat.mod_eq_of_lt (of_decide_eq_true h)
    simp [encode, decode, hn]
  case skipKeyPressed | skipKeyNotPressed => simp [encode, decode, decodeE]
  case move | or | and | xor | addReg | sub | shiftRight | subReverse | shiftLeft =>
    simp [encode, decode, decode8]
  all_goals simp [encode, decode, decodeF]

/-! ### Encoding what a word decodes to -/

theorem encode_of_decode0 {w : Word} {i : Instr} (h : decode0 w = .instr i) :
    i.WellFormed ∧ encode i = w := by
  unfold decode0 at h
  split at h
  case isTrue cls =>
    cases h
    exact ⟨rfl, cls.symm⟩
  case isFalse =>
    split at h
    case isTrue ret =>
      cases h
      exact ⟨rfl, ret.symm⟩
    case isFalse => cases h

theorem encode_of_decode8 {w : Word} {i : Instr} (hop : opField w = 0x8) (h : decode8 w = .instr i) :
    i.WellFormed ∧ encode i = w := by
  unfold decode8 at h
  split at h
  case h_10 => cases h
  all_goals
    cases h
    exact ⟨rfl, packXYN_fields hop ‹_›⟩

/-- The word of a format with a subbyte, put together from X and that subbyte. -/
theorem packXNN_subbyte {w : Word} {op : BitVec 4} {nn : Byte} (hop : opField w = op.toNat)
    (hnn : (nnField w).toNat = nn.toNat) : packXNN op (xField w) nn = w :=
  BitVec.eq_of_toNat_eq hnn ▸ packXNN_fields hop

theorem encode_of_decodeE {w : Word} {i : Instr} (hop : opField w = 0xE) (h : decodeE w = .instr i) :
    i.WellFormed ∧ encode i = w := by
  unfold decodeE at h
  split at h
  case h_3 => cases h
  all_goals
    cases h
    exact ⟨rfl, packXNN_subbyte hop ‹_›⟩

theorem encode_of_decodeF {w : Word} {i : Instr} (hop : opField w = 0xF) (h : decodeF w = .instr i) :
    i.WellFormed ∧ encode i = w := by
  unfold decodeF at h
  split at h
  case h_10 => cases h
  all_goals
    cases h
    exact ⟨rfl, packXNN_subbyte hop ‹_›⟩

/-- A word that decodes is the opcode of what it decodes to: the fields the decoder read, with `op`, are all of
its bits. -/
theorem encode_of_decode {w : Word} {i : Instr} (h : decode w = .instr i) : i.WellFormed ∧ encode i = w := by
  unfold decode at h
  split at h
  case h_1 => exact encode_of_decode0 h
  case h_2 hop | h_3 hop | h_11 hop | h_12 hop =>
    cases h
    exact ⟨rfl, packNNN_fields hop⟩
  case h_4 hop | h_5 hop | h_7 hop | h_8 hop | h_13 hop =>
    cases h
    exact ⟨rfl, packXNN_fields hop⟩
  case h_6 hop | h_10 hop =>
    split at h
    case isTrue hn =>
      cases h
      exact ⟨rfl, packXYN_fields hop hn⟩
    case isFalse => cases h
  case h_14 hop =>
    cases h
    exact ⟨decide_eq_true (nField_lt w), packXYN_fields hop (Nat.mod_eq_of_lt (nField_lt w)).symm⟩
  case h_9 hop => exact encode_of_decode8 hop h
  case h_15 hop => exact encode_of_decodeE hop h
  case h_16 hop => exact encode_of_decodeF hop h
  case h_17 => cases h

/-! ### The row a word decodes into -/

open Laws.RowMatch in
/-- Every instruction's opcode lies in its row, a row of the map. -/
theorem encode_in_row : ∀ i, Laws.RowMatch.Statement i
  | .clearDisplay => clearDisplay
  | .ret => ret
  | .jump _ => jump _
  | .call _ => call _
  | .skipEqByte _ _ => skipEqByte _ _
  | .skipNeByte _ _ => skipNeByte _ _
  | .skipEqReg _ _ => skipEqReg _ _
  | .loadByte _ _ => loadByte _ _
  | .addByte _ _ => addByte _ _
  | .move _ _ => move _ _
  | .or _ _ => or _ _
  | .and _ _ => and _ _
  | .xor _ _ => xor _ _
  | .addReg _ _ => addReg _ _
  | .sub _ _ => sub _ _
  | .shiftRight _ _ => shiftRight _ _
  | .subReverse _ _ => subReverse _ _
  | .shiftLeft _ _ => shiftLeft _ _
  | .skipNeReg _ _ => skipNeReg _ _
  | .loadI _ => loadI _
  | .jumpPlusZero _ => jumpPlusZero _
  | .random _ _ => random _ _
  | .draw _ _ _ => draw _ _ _
  | .skipKeyPressed _ => skipKeyPressed _
  | .skipKeyNotPressed _ => skipKeyNotPressed _
  | .loadDelayTimer _ => loadDelayTimer _
  | .waitForKeyPress _ => waitForKeyPress _
  | .setDelayTimer _ => setDelayTimer _
  | .setSoundTimer _ => setSoundTimer _
  | .addI _ => addI _
  | .loadSprite _ => loadSprite _
  | .storeBCD _ => storeBCD _
  | .storeRegisters _ => storeRegisters _
  | .loadRegisters _ => loadRegisters _

/-- What a word decodes to is of a row of the map that covers the word. -/
theorem row_covers_of_decode {w : Word} {i : Instr} (h : decode w = .instr i) :
    i.row ∈ opcodeMap ∧ i.row.covers w = true := by
  obtain ⟨-, rfl⟩ := encode_of_decode h
  obtain ⟨masked, inMap⟩ := encode_in_row i
  exact ⟨inMap, beq_iff_eq.mpr masked⟩

/-- A bit field that a row's mask keeps whole is, in every word of the row, the field of the row's value. -/
theorem OpcodeRow.extract_of_covers {r : OpcodeRow} {w : Word} (h : r.covers w = true) {lo len : Nat}
    (kept : (r.mask.extractLsb' lo len).toNat = 2 ^ len - 1) :
    w.extractLsb' lo len = r.value.extractLsb' lo len := by
  have allOnes : r.mask.extractLsb' lo len = BitVec.allOnes len :=
    BitVec.eq_of_toNat_eq (kept.trans BitVec.toNat_allOnes.symm)
  rw [← beq_iff_eq.mp h, BitVec.extractLsb'_and, allOnes, BitVec.and_allOnes]

theorem OpcodeRow.opField_of_covers {r : OpcodeRow} {w : Word} (h : r.covers w = true)
    (kept : opField r.mask = 0xF) : opField w = opField r.value :=
  congrArg BitVec.toNat (extract_of_covers h kept)

theorem OpcodeRow.nField_of_covers {r : OpcodeRow} {w : Word} (h : r.covers w = true)
    (kept : nField r.mask = 0xF) : nField w = nField r.value :=
  congrArg BitVec.toNat (extract_of_covers h kept)

theorem OpcodeRow.nnField_of_covers {r : OpcodeRow} {w : Word} (h : r.covers w = true)
    (kept : (nnField r.mask).toNat = 0xFF) : nnField w = nnField r.value :=
  extract_of_covers h kept

/-- A row that masks nothing away covers its value only. -/
theorem OpcodeRow.eq_of_covers {r : OpcodeRow} {w : Word} (h : r.covers w = true)
    (kept : r.mask = BitVec.allOnes 16) : w = r.value := by
  rw [← beq_iff_eq.mp h, kept, BitVec.and_allOnes]

/-- A word in an instruction's row decodes to an instruction of that row: the row's mask keeps every field the
decoder dispatches on. -/
theorem decode_of_row_covers {i : Instr} {w : Word} (h : i.row.covers w = true) :
    ∃ j, decode w = .instr j ∧ j.row = i.row := by
  cases i <;> simp only [Instr.row] at h ⊢
  case clearDisplay | ret =>
    rw [OpcodeRow.eq_of_covers h rfl]
    exact ⟨_, rfl, rfl⟩
  case jump | call | loadI | jumpPlusZero | skipEqByte | skipNeByte | loadByte | addByte | random | draw =>
    have hop := OpcodeRow.opField_of_covers h rfl
    rw [decode, hop]
    exact ⟨_, rfl, rfl⟩
  case skipEqReg | skipNeReg =>
    have hop := OpcodeRow.opField_of_covers h rfl
    have hn := OpcodeRow.nField_of_covers h rfl
    rw [decode, hop, hn]
    exact ⟨_, rfl, rfl⟩
  case move | or | and | xor | addReg | sub | shiftRight | subReverse | shiftLeft =>
    have hop := OpcodeRow.opField_of_covers h rfl
    have hn := OpcodeRow.nField_of_covers h rfl
    rw [decode, decode8, hop, hn]
    exact ⟨_, rfl, rfl⟩
  case skipKeyPressed | skipKeyNotPressed =>
    have hop := OpcodeRow.opField_of_covers h rfl
    have hnn := OpcodeRow.nnField_of_covers h rfl
    rw [decode, decodeE, hop, hnn]
    exact ⟨_, rfl, rfl⟩
  all_goals
    have hop := OpcodeRow.opField_of_covers h rfl
    have hnn := OpcodeRow.nnField_of_covers h rfl
    rw [decode, decodeF, hop, hnn]
    exact ⟨_, rfl, rfl⟩

/-- One instruction of each row, in the map's order. -/
def rowExamples : List Instr :=
  [.clearDisplay, .ret, .jump 0, .call 0, .skipEqByte 0 0, .skipNeByte 0 0, .skipEqReg 0 0, .loadByte 0 0,
   .addByte 0 0, .move 0 0, .or 0 0, .and 0 0, .xor 0 0, .addReg 0 0, .sub 0 0, .shiftRight 0 0,
   .subReverse 0 0, .shiftLeft 0 0, .skipNeReg 0 0, .loadI 0, .jumpPlusZero 0, .random 0 0, .draw 0 0 0,
   .skipKeyPressed 0, .skipKeyNotPressed 0, .loadDelayTimer 0, .waitForKeyPress 0, .setDelayTimer 0,
   .setSoundTimer 0, .addI 0, .loadSprite 0, .storeBCD 0, .storeRegisters 0, .loadRegisters 0]

theorem map_row_rowExamples : rowExamples.map Instr.row = opcodeMap := rfl

/-- A word a row of the map covers decodes into that row. -/
theorem decode_of_covers {r : OpcodeRow} {w : Word} (hr : r ∈ opcodeMap) (h : r.covers w = true) :
    ∃ i, decode w = .instr i ∧ i.row = r := by
  rw [← map_row_rowExamples] at hr
  obtain ⟨i, -, rfl⟩ := List.mem_map.mp hr
  exact decode_of_row_covers h

/-- Decoding is total, and a failure carries the word (R73). -/
theorem decode_total (w : Word) : decode w = .decodeFailure w ∨ ∃ i, decode w = .instr i := by
  cases h : decode w with
  | instr i => exact .inr ⟨i, rfl⟩
  | decodeFailure w' => exact .inl (by rw [decodeFailure_carries h])

/-! ### The words that fail, family by family -/

theorem decode0_fails {w : Word} : decode0 w = .decodeFailure w ↔ w ≠ 0x00E0#16 ∧ w ≠ 0x00EE#16 := by
  unfold decode0
  split
  case isTrue cls => simp [cls]
  case isFalse notCls =>
    split
    case isTrue ret => simp [ret]
    case isFalse notRet => simp [notCls, notRet]

theorem decode8_fails {w : Word} :
    decode8 w = .decodeFailure w ↔ nField w ∈ [0x8, 0x9, 0xA, 0xB, 0xC, 0xD, 0xF] := by
  have := nField_lt w
  unfold decode8
  split
  case h_10 =>
    simp only [List.mem_cons, List.not_mem_nil, or_false, true_iff, imp_false] at *
    omega
  all_goals simp [*]

theorem decodeE_fails {w : Word} : decodeE w = .decodeFailure w ↔ (nnField w).toNat ∉ [0x9E, 0xA1] := by
  unfold decodeE
  split <;> simp_all

theorem decodeF_fails {w : Word} :
    decodeF w = .decodeFailure w ↔
      (nnField w).toNat ∉ [0x07, 0x0A, 0x15, 0x18, 0x1E, 0x29, 0x33, 0x55, 0x65] := by
  unfold decodeF
  split <;> simp_all

/-- The table of R79 over the fields of a word. -/
theorem failsByTable_fields (w : Word) :
    failsByTable w.toNat ↔
      (opField w = 0x0 ∧ w ≠ 0x00E0#16 ∧ w ≠ 0x00EE#16) ∨
      (opField w = 0x5 ∧ nField w ≠ 0) ∨
      (opField w = 0x8 ∧ nField w ∈ [0x8, 0x9, 0xA, 0xB, 0xC, 0xD, 0xF]) ∨
      (opField w = 0x9 ∧ nField w ≠ 0) ∨
      (opField w = 0xE ∧ (nnField w).toNat ∉ [0x9E, 0xA1]) ∨
      (opField w = 0xF ∧
        (nnField w).toNat ∉ [0x07, 0x0A, 0x15, 0x18, 0x1E, 0x29, 0x33, 0x55, 0x65]) := by
  rw [opField_eq, nField_eq, nnField_toNat, Ne, Ne, BitVec.toNat_eq, BitVec.toNat_eq]
  rfl

/-- The failing words are those the table lists: each family fails where its own decoder does. -/
theorem decode_fails_iff (w : Word) : decode w = .decodeFailure w ↔ failsByTable w.toNat := by
  rw [failsByTable_fields, decode]
  split
  case h_1 hop => simp [hop, decode0_fails]
  case h_9 hop => simp [hop, decode8_fails]
  case h_15 hop => simp [hop, decodeE_fails]
  case h_16 hop => simp [hop, decodeF_fails]
  case h_6 hop | h_10 hop => simp [hop]
  case h_17 =>
    -- `op` has 4 bits, so one of the sixteen arms before was taken.
    have := opField_lt w
    simp only [imp_false] at *
    omega
  all_goals simp [*]

/-! ### The obligations of the family -/

/-- Settles O1: format by format, the fields read back are the fields packed. -/
theorem decodeOfEncode : Obligations.DecodeOfEncode := fun _ => decode_encode

/-- Settles O2: the fields read, put back, are the word. -/
theorem encodeOfDecode : Obligations.EncodeOfDecode := fun _ _ => encode_of_decode

/-- Settles O3: a word that decodes lies in the row it decodes into, and a word of a row decodes. -/
theorem decodeFailsExactlyOffTheMap : Obligations.DecodeFailsExactlyOffTheMap := by
  intro w
  constructor
  · exact (decode_total w).imp_right fun ⟨i, hd⟩ => ⟨i, hd, row_covers_of_decode hd⟩
  constructor
  · intro fails r hr
    refine Bool.eq_false_iff.mpr fun covered => ?_
    obtain ⟨i, hd, -⟩ := decode_of_covers hr covered
    cases fails.symm.trans hd
  · intro uncovered
    refine (decode_total w).resolve_right ?_
    rintro ⟨i, hd⟩
    obtain ⟨inMap, covers⟩ := row_covers_of_decode hd
    exact Bool.false_ne_true ((uncovered i.row inMap).symm.trans covers)

/-- Settles O4: by the failing words of each family's decoder. -/
theorem decodeFailsByFamilyTable : Obligations.DecodeFailsByFamilyTable := decode_fails_iff

/-- Settles O5: both rows are the row of the one instruction the word decodes to. -/
theorem opcodeRowsDisjoint : Obligations.OpcodeRowsDisjoint := by
  intro w r r' hr hr' h h'
  obtain ⟨i, hd, rfl⟩ := decode_of_covers hr h
  obtain ⟨j, hd', rfl⟩ := decode_of_covers hr' h'
  cases hd.symm.trans hd'
  rfl

/-- Settles O6, by running the decoder on each word. -/
theorem specWordsDecode : Obligations.SpecWordsDecode := by
  unfold Obligations.SpecWordsDecode
  decide

end Sys2Proof
end

section
/-! SUPPORT. The family 40_cycle.md: the execute step where the fetch or the decoding fails (R102, R103), what a
fault reads and so what leaves it standing (R111), and the steps that change little or nothing: no timer (R109),
the key wait (R108), the jump to itself (R113, R122). -/

namespace Sys2Proof.Machine

/-! ### The fetch and the decoding -/

/-- Where the two bytes at PC are not both in memory, the step faults at the fetch. -/
theorem execStep_of_fetch_outside {s : State} (h : 0xFFF ≤ s.pc.toNat) :
    execStep s = .fault (.outOfBounds (.mem (max s.pc.toNat 0x1000))) := by
  unfold execStep
  rw [State.fetchFault_eq_some h]
  rfl

theorem State.fetchWord_eq_ofNat (s : State) :
    s.fetchWord = BitVec.ofNat 16
      ((Memory.read s.mem s.pc.toNat).toNat * 256 + (Memory.read s.mem (s.pc.toNat + 1)).toNat) := by
  rw [← State.fetchWord_toNat, BitVec.ofNat_toNat, BitVec.setWidth_eq]

/-! ### What a fault reads -/

/-- An execute step that faults reads PC and memory for the fetch, and V, I and SP for the instruction's check:
states that agree on these fault alike. -/
theorem execStep_fault_congr {s s' : State} {f : Fault} (hp : s'.pc = s.pc) (hm : s'.mem = s.mem)
    (hv : s'.v = s.v) (hi : s'.i = s.i) (hsp : s'.sp = s.sp) (h : execStep s = .fault f) :
    execStep s' = .fault f := by
  have fetched : s'.fetchWord = s.fetchWord := by rw [State.fetchWord, State.fetchWord, hp, hm]
  rcases execStep_cases s with ⟨outside, e⟩ | ⟨inside, w, hd, e⟩ | ⟨inside, i, hd, e⟩
  · rw [execStep_of_fetch_outside (hp ▸ outside), hp]
    exact e.symm.trans h
  · rw [execStep_of_decodeFailure (hp ▸ inside) (fetched ▸ hd)]
    exact e.symm.trans h
  · have failed : check i s = some f := exec_eq_fault.mp (e.symm.trans h)
    rw [execStep_of_decode (hp ▸ inside) (fetched ▸ hd), exec_eq_fault, check_congr hv hi fun _ => hsp]
    exact failed

/-- A transaction other than `EXEC` completes and writes nothing a fault reads: only the timers, K, DIRTY or the
random source (R42–R46). -/
theorem perform_keeps_fault {t : Transaction} {s : State} {f : Fault} (ht : t ≠ .exec)
    (h : execStep s = .fault f) : ∃ s', perform t s = .next s' ∧ execStep s' = .fault f := by
  cases t
  case exec => exact absurd rfl ht
  all_goals exact ⟨_, rfl, execStep_fault_congr (s := s) rfl rfl rfl rfl rfl h⟩

/-! ### Steps that leave the timers -/

/-- A completed execute step of an instruction that sets neither timer leaves both (R109, R30). -/
theorem execStep_keeps_timers {s t : State} (he : execStep s = .next t)
    (hno : ∀ i, decode s.fetchWord = .instr i → i.setsDt = false ∧ i.setsSt = false) :
    t.dt = s.dt ∧ t.st = s.st := by
  obtain ⟨-, i, hd, executed⟩ := execStep_eq_next he
  obtain ⟨-, -, keepsDt, keepsSt⟩ := specialRegistersFrame i s t executed
  exact (hno i hd).imp keepsDt keepsSt

/-! ### Steps that change nothing -/

/-- There is no least pressed key exactly when no key is pressed. -/
theorem State.leastKey_eq_none {s : State} : s.leastKey = none ↔ ∀ k : Fin 16, s.keys[k.val] = false := by
  simp [State.leastKey, List.find?_eq_none]

/-- An address below 0x1000 is its own low 12 bits, extended. -/
theorem addrOperand_truncate {w : Word} (h : w.toNat < 0x1000) : addrOperand (w.truncate 12) = w := by
  apply BitVec.eq_of_toNat_eq
  rw [addrOperand_toNat, BitVec.truncate_eq_setWidth, BitVec.toNat_setWidth, Nat.mod_eq_of_lt h]

/-- At a jump to itself the execute step sets PC to what it was (R122). -/
theorem execStep_of_atSelfJump {s : State} (h : s.atSelfJump) : execStep s = .next s := by
  obtain ⟨fetchable, hd⟩ := h
  have target : addrOperand (s.pc.truncate 12) = s.pc := addrOperand_truncate (by omega)
  have stays : effect (.jump (s.pc.truncate 12)) s = s := by rw [effect, target]; rfl
  rw [execStep_of_decode fetchable hd]
  exact exec_eq_next.mpr ⟨rfl, stays⟩

/-! ### The obligations of the family -/

/-- Settles O13, by induction on the transactions: each keeps the fault. -/
theorem faultPersists : Obligations.FaultPersists := by
  intro s f ts h hts
  induction ts generalizing s with
  | nil => exact ⟨s, rfl, h⟩
  | cons t ts ih =>
    obtain ⟨ht, hrest⟩ := List.forall_mem_cons.mp hts
    obtain ⟨s₁, performed, faults⟩ := perform_keeps_fault ht h
    rw [performAll, performed]
    exact ih s₁ faults hrest

/-- Settles O48, by induction on the run: each step keeps both timers. -/
theorem executeStepsLeaveTimers : Obligations.ExecuteStepsLeaveTimers := by
  intro n s t run
  induction run with
  | none s => exact ⟨rfl, rfl⟩
  | more n s t u he hno _ ih =>
    obtain ⟨dt_first, st_first⟩ := execStep_keeps_timers he hno
    obtain ⟨dt_rest, st_rest⟩ := ih
    exact ⟨dt_rest.trans dt_first, st_rest.trans st_first⟩

/-- Settles O7: the fault of the fetch, and where a completed step stood. -/
theorem fetchOutsideMemoryFaults : Obligations.FetchOutsideMemoryFaults :=
  fun _ => ⟨execStep_of_fetch_outside, fun _ he => (execStep_eq_next he).1⟩

/-- Settles O8: the two bytes are the fetched word, and under either schedule the step is an execute step. -/
theorem stepExecutesDecodedInstruction : Obligations.StepExecutesDecodedInstruction := by
  intro s i hp hd
  rw [← State.fetchWord_eq_ofNat] at hd
  refine ⟨(encode_of_decode hd).1, fun empty => ?_, fun ts leading => ?_⟩
  · rw [step_of_schedule_nil empty]
    exact execStep_of_decode hp hd
  · rw [step_of_schedule_cons leading]
    exact execStep_of_decode (s := { s with schedule := ts }) hp hd

/-- Settles O9: the failure the decoder answers carries the word it was given. -/
theorem undecodableWordFaults : Obligations.UndecodableWordFaults := by
  intro s w hp hd
  obtain rfl := decodeFailure_carries hd
  exact execStep_of_decodeFailure hp hd

/-- Settles O37: with no least pressed key the effect is the state itself. -/
theorem keyWaitStallsInPlace : Obligations.KeyWaitStallsInPlace := by
  intro x s released
  have stalls : effect (.waitForKeyPress x) s = s := by
    rw [effect_waitForKeyPress, State.leastKey_eq_none.mpr released]
    rfl
  exact exec_eq_next.mpr ⟨rfl, stalls⟩

/-- Settles O53: the execute step is a fixed point, and with nothing scheduled the step is that execute step. -/
theorem selfJumpIsFixedPoint : Obligations.SelfJumpIsFixedPoint := by
  intro s h
  have stays := execStep_of_atSelfJump h
  exact ⟨stays, fun empty => (step_of_schedule_nil empty).trans stays⟩

end Sys2Proof.Machine
end

section
/-! SUPPORT. The family 41_control_flow.md: what `Call` and `Return` answer above and at the ends of the stack
(R121, R123), and runs of either (R125). -/

namespace Sys2Proof.Machine

/-! ### Call and return -/

/-- Below depth 16 `Call` completes (R123). -/
theorem exec_call_of_lt {s : State} (h : s.sp.val < 16) (nnn : Addr12) :
    exec (.call nnn) s = .next ((s.push (s.pc + 2)).setPc (addrOperand nnn)) :=
  exec_eq_next.mpr ⟨State.overflowFault_eq_none.mpr h, rfl⟩

/-- At depth 16 it overflows (R123). -/
theorem exec_call_of_full {s : State} (h : s.sp.val = 16) (nnn : Addr12) :
    exec (.call nnn) s = .fault .stackOverflow :=
  exec_eq_fault.mpr (if_pos h)

/-- Above depth 0 `Return` completes (R121). -/
theorem exec_ret_of_pos {s : State} (h : 0 < s.sp.val) : exec .ret s = .next (s.dropTop.setPc s.top) :=
  exec_eq_next.mpr ⟨State.underflowFault_eq_none.mpr h, rfl⟩

/-- At depth 0 it underflows (R121). -/
theorem exec_ret_of_empty {s : State} (h : s.sp.val = 0) : exec .ret s = .fault .stackUnderflow :=
  exec_eq_fault.mpr (if_pos h)

/-! ### Runs of calls and of returns -/

theorem runInstrs_cons {i : Instr} {is : List Instr} {s t : State} (h : exec i s = .next t) :
    runInstrs (i :: is) s = runInstrs is t := by
  rw [runInstrs, h]

/-- As many calls as the stack has room for complete, each one deeper. -/
theorem runInstrs_calls (targets : List Addr12) (s : State) (room : s.sp.val + targets.length ≤ 16) :
    ∃ t, runInstrs (targets.map Instr.call) s = .next t ∧ t.sp.val = s.sp.val + targets.length := by
  induction targets generalizing s with
  | nil => exact ⟨s, rfl, rfl⟩
  | cons nnn targets ih =>
    rw [List.length_cons] at room ⊢
    have below : s.sp.val < 16 := by omega
    have deeper := State.push_sp_val below (s.pc + 2)
    obtain ⟨t, ran, depth⟩ := ih ((s.push (s.pc + 2)).setPc (addrOperand nnn))
      (by rw [State.setPc_sp, deeper]; omega)
    refine ⟨t, (runInstrs_cons (exec_call_of_lt below nnn)).trans ran, ?_⟩
    rw [depth, State.setPc_sp, deeper]
    omega

/-- As many returns as the stack has entries complete, each one shallower. -/
theorem runInstrs_rets (n : Nat) (s : State) (entries : n ≤ s.sp.val) :
    ∃ t, runInstrs (List.replicate n Instr.ret) s = .next t ∧ t.sp.val = s.sp.val - n := by
  induction n generalizing s with
  | zero => exact ⟨s, rfl, rfl⟩
  | succ n ih =>
    have above : 0 < s.sp.val := by omega
    have shallower := State.dropTop_sp_val above
    obtain ⟨t, ran, depth⟩ := ih (s.dropTop.setPc s.top) (by rw [State.setPc_sp, shallower]; omega)
    refine ⟨t, (runInstrs_cons (exec_ret_of_pos above)).trans ran, ?_⟩
    rw [depth, State.setPc_sp, shallower]
    omega

/-! ### The targets of the jumps -/

theorem addrOperand_eq_ofNat (nnn : Addr12) : addrOperand nnn = BitVec.ofNat 16 nnn.toNat :=
  (BitVec.ofNat_toNat 16 nnn).symm

/-- NNN + V0 stays below 2^16 (R124). -/
theorem State.jumpPlusZero_target_toNat (s : State) (nnn : Addr12) :
    (addrOperand nnn + s.wideV 0).toNat = nnn.toNat + (s.readV 0).toNat := by
  have := nnn.isLt
  have := (s.readV 0).isLt
  rw [← addrOperand_toNat, ← State.wideV_toNat]
  refine BitVec.toNat_add_of_lt ?_
  rw [addrOperand_toNat, State.wideV_toNat]
  omega

/-! ### The obligations of the family -/

/-- Settles O23: the push writes the entry at SP alone. -/
theorem callPushesReturnAddress : Obligations.CallPushesReturnAddress := by
  refine fun nnn s => ⟨fun below => ?_, fun full => exec_call_of_full full nnn⟩
  have entry := s.push_stack_get (s.pc + 2)
  refine ⟨_, exec_call_of_lt below nnn, ?_, fun j other => ?_, ?_, ?_, rfl⟩
  · exact (entry ⟨s.sp.val, below⟩).trans (if_pos rfl)
  · exact (entry j).trans (if_neg other)
  · exact State.push_sp_val below (s.pc + 2)
  · exact addrOperand_toNat nnn

/-- Settles O24: the entry on top becomes PC, which the next fetch checks. -/
theorem returnPopsLastEntry : Obligations.ReturnPopsLastEntry := by
  refine fun s => ⟨fun above => ?_, exec_ret_of_empty⟩
  exact ⟨_, exec_ret_of_pos above, State.top_eq above, State.dropTop_sp_val above, rfl,
    execStep_of_fetch_outside⟩

/-- Settles O52: the calls fill the stack and the returns empty it. -/
theorem stackDiscipline : Obligations.StackDiscipline := by
  intro targets nnn s empty sixteen
  obtain ⟨t, called, depth⟩ := runInstrs_calls targets s (by omega)
  have full : t.sp.val = 16 := by omega
  obtain ⟨u, returned, depth'⟩ := runInstrs_rets 16 t (Nat.le_of_eq full.symm)
  have drained : u.sp.val = 0 := by omega
  exact ⟨t, u, called, full, exec_call_of_full full nnn, returned, drained, exec_ret_of_empty drained⟩

/-- Settles O22: PC becomes NNN, which the next fetch checks. -/
theorem jumpSetsPc : Obligations.JumpSetsPc := by
  intro nnn s
  have jumps : exec (.jump nnn) s = .next { s with pc := BitVec.ofNat 16 nnn.toNat } :=
    exec_eq_next.mpr ⟨rfl, congrArg s.setPc (addrOperand_eq_ofNat nnn)⟩
  refine ⟨jumps, fun toSelf => ?_, ?_⟩
  · rw [jumps, toSelf, BitVec.ofNat_toNat, BitVec.setWidth_eq]
  · rintro rfl t executed
    cases jumps.symm.trans executed
    exact execStep_of_fetch_outside (Nat.le_refl 0xFFF)

/-- Settles O25: both summands are small, so the sum does not wrap. -/
theorem jumpPlusZeroAddsV0 : Obligations.JumpPlusZeroAddsV0 :=
  fun nnn s => ⟨_, exec_eq_next.mpr ⟨rfl, rfl⟩, s.jumpPlusZero_target_toNat nnn, rfl⟩

end Sys2Proof.Machine
end

section
/-! SUPPORT. The family 42_skip.md: what `SkipIf` of a condition answers (R130), and the check and the level of a key
index (R135, R136). -/

namespace Sys2Proof.Machine

/-! ### The skip -/

/-- An instruction whose check passes and whose effect is `SkipIf` of a test for `p` moves PC alone (R130). -/
theorem exec_eq_next_of_skipIf {i : Instr} {s : State} {c : Bool} {p : Prop} [Decidable p]
    (passes : check i s = none) (skips : effect i s = s.skipIf c) (tests : c = true ↔ p) :
    exec i s = .next { s with pc := if p then s.pc + 4 else s.pc + 2 } :=
  exec_eq_next.mpr ⟨passes, skips.trans (congrArg s.setPc (ite_congr (propext tests) (fun _ => rfl) fun _ => rfl))⟩

/-! ### The key index -/

/-- An index of one of the 16 keys passes the check (R33). -/
theorem keyFault_eq_none {v : Byte} (h : v.toNat < 16) : keyFault v = none :=
  if_neg (show ¬ v.toNat > 0xF by omega)

/-- Any other faults with that index (R135, R136; D9). -/
theorem keyFault_eq_some {v : Byte} (h : 16 ≤ v.toNat) : keyFault v = some (.outOfBounds (.key v)) :=
  if_pos h

/-- On a key index the level asked for is the entry of K. -/
theorem State.keyDown_eq_getElem (s : State) {k : Nat} (h : k < 16) : s.keyDown k = s.keys[k] := by
  simp only [State.keyDown, Vector.getElem?_eq_getElem h, Option.getD_some]

/-! ### The obligations of the family -/

/-- Settles O27: the check decides between the two clauses, and under it the condition is the level of the key. -/
theorem keySkips : Obligations.KeySkips := by
  refine fun x s => ⟨fun isKey => ?_, fun above => ?_⟩
  · have passes := keyFault_eq_none isKey
    have level := s.keyDown_eq_getElem isKey
    constructor
    · exact exec_eq_next_of_skipIf passes rfl (by rw [level])
    · exact exec_eq_next_of_skipIf passes rfl (by rw [level, Bool.not_eq_true'])
  · have faults := keyFault_eq_some above
    exact ⟨exec_eq_fault.mpr faults, exec_eq_fault.mpr faults⟩

/-- Settles O26: none of the four has a check, and each condition tests its comparison. -/
theorem comparingSkips : Obligations.ComparingSkips :=
  fun _ _ _ _ =>
    ⟨exec_eq_next_of_skipIf rfl rfl decide_eq_true_iff, exec_eq_next_of_skipIf rfl rfl decide_eq_true_iff,
      exec_eq_next_of_skipIf rfl rfl decide_eq_true_iff, exec_eq_next_of_skipIf rfl rfl decide_eq_true_iff⟩

end Sys2Proof.Machine
end

section
/-! SUPPORT. The family 43_load_arith.md: what an instruction that writes one register answers, with and without a
flag (R140, R152), and the results and flags as numbers (R147–R151). -/

namespace Sys2Proof.Machine

/-! ### The two shapes of the family -/

/-- An instruction whose check passes and whose effect writes b to V[X] moves V[X] and PC alone (R141–R146). -/
theorem exec_of_writeV {i : Instr} {s : State} {x : Reg} {b : Byte} (passes : check i s = none)
    (writes : effect i s = (s.writeV x b).advance) :
    ∃ t, exec i s = .next t ∧ t.readV x = b ∧
      (∀ r, r ≠ x → t.readV r = s.readV r) ∧ t = { s with v := t.v, pc := s.pc + 2 } :=
  ⟨_, exec_eq_next.mpr ⟨passes, writes⟩, s.readV_writeV_same x b, fun _ other => State.readV_writeV_ne other s b, rfl⟩

/-- One of the flag-writing shape, its result worth n and its flag a test for p, leaves n in V[X] and the answer in VF
unless that is V[X], and moves nothing else but PC (R140). -/
theorem exec_of_flagThenResult {i : Instr} {s : State} {x : Reg} {flag : Bool} {b : Byte} {n : Nat} {p : Prop}
    [Decidable p] (passes : check i s = none) (writes : effect i s = s.flagThenResult x flag b) (value : b.toNat = n)
    (tests : flag = true ↔ p) :
    ∃ t, exec i s = .next t ∧ (t.readV x).toNat = n ∧ (x ≠ 15 → t.readV 15 = if p then 1 else 0) ∧
      (∀ r, r ≠ x → r ≠ 15 → t.readV r = s.readV r) ∧ t = { s with v := t.v, pc := s.pc + 2 } := by
  have register := fun y => s.readV_flagThenResult x y flag b
  refine ⟨_, exec_eq_next.mpr ⟨passes, writes⟩, ?_, fun notVf => ?_, fun r notX notVf => ?_, rfl⟩
  · rw [register, if_pos rfl, value]
  · calc (s.flagThenResult x flag b).readV 15
      _ = if flag = true then 1 else 0 := (register 15).trans ((if_neg notVf.symm).trans (if_pos rfl))
      _ = if p then 1 else 0 := ite_congr (propext tests) (fun _ => rfl) fun _ => rfl
  · exact State.readV_flagThenResult_ne notX notVf s flag b

/-! ### Results and flags as numbers -/

/-- The difference of two bytes, taken modulo 256 (R148, R150). -/
theorem byte_sub_toNat (a b : Byte) : (a - b).toNat = (a.toNat + 256 - b.toNat) % 256 := by
  have := b.isLt
  rw [BitVec.toNat_sub]
  omega

/-- Half a byte, rounded down (R149). -/
theorem byte_shiftRight_toNat (a : Byte) : (a >>> 1).toNat = a.toNat / 2 := by
  rw [BitVec.toNat_ushiftRight, Nat.shiftRight_eq_div_pow, Nat.pow_one]

/-- Twice a byte, taken modulo 256 (R151). -/
theorem byte_shiftLeft_toNat (a : Byte) : (a <<< 1).toNat = a.toNat * 2 % 256 := by
  rw [BitVec.toNat_shiftLeft, Nat.shiftLeft_eq, Nat.pow_one]

/-- A flag that is bit k of a byte, as the number VF then holds. -/
theorem flag_getLsbD_toNat (a : Byte) (k : Nat) :
    (if a.getLsbD k = true then 1 else 0 : Byte).toNat = a.toNat / 2 ^ k % 2 := by
  rw [← Nat.toNat_testBit, BitVec.testBit_toNat]
  cases a.getLsbD k <;> rfl

/-- The bit 8XY6 shifts out is the remainder of the halving (R149). -/
theorem shiftRightFlag_toNat (a : Byte) : (if shiftRightFlag a = true then 1 else 0 : Byte).toNat = a.toNat % 2 := by
  rw [shiftRightFlag, flag_getLsbD_toNat, Nat.pow_zero, Nat.div_one]

/-- The bit 8XYE shifts out tells the upper half of the bytes (R151). -/
theorem shiftLeftFlag_toNat (a : Byte) : (if shiftLeftFlag a = true then 1 else 0 : Byte).toNat = a.toNat / 128 := by
  have := a.isLt
  rw [shiftLeftFlag, flag_getLsbD_toNat]
  omega

/-! ### The obligations of the family -/

/-- Settles O30: the result is the sum modulo 256, and the flag tests for the carry. -/
theorem addWithCarry : Obligations.AddWithCarry :=
  fun x y s => exec_of_flagThenResult rfl rfl (BitVec.toNat_add (s.readV x) (s.readV y)) decide_eq_true_iff

/-- Settles O31: the result is the difference modulo 256, and the flag tests for no borrow, in either order. -/
theorem subtractWithBorrow : Obligations.SubtractWithBorrow :=
  fun x y s =>
    ⟨exec_of_flagThenResult rfl rfl (byte_sub_toNat (s.readV x) (s.readV y)) decide_eq_true_iff,
      exec_of_flagThenResult rfl rfl (byte_sub_toNat (s.readV y) (s.readV x)) decide_eq_true_iff⟩

/-- Settles O32: the result is the half or the double, and the flag the bit shifted out, read as a number. -/
theorem shiftsInPlace : Obligations.ShiftsInPlace := by
  intro x y s
  constructor
  · obtain ⟨t, ran, result, flag, frame⟩ :=
      exec_of_flagThenResult (i := .shiftRight x y) rfl rfl (byte_shiftRight_toNat (s.readV x)) Iff.rfl
    exact ⟨t, ran, result, fun notVf => by rw [flag notVf, shiftRightFlag_toNat], frame⟩
  · obtain ⟨t, ran, result, flag, frame⟩ :=
      exec_of_flagThenResult (i := .shiftLeft x y) rfl rfl (byte_shiftLeft_toNat (s.readV x)) Iff.rfl
    exact ⟨t, ran, result, fun notVf => by rw [flag notVf, shiftLeftFlag_toNat], frame⟩

/-- Settles O28: each writes one register and no flag; the sum of `AddByte` is read as a number. -/
theorem loadsAndAddByte : Obligations.LoadsAndAddByte := by
  refine fun x y nn s => ⟨exec_of_writeV rfl rfl, ?_, exec_of_writeV rfl rfl⟩
  obtain ⟨t, ran, result, frame⟩ := exec_of_writeV (i := .addByte x nn) (s := s) rfl rfl
  exact ⟨t, ran, by rw [result, BitVec.toNat_add], frame⟩

/-- Settles O29: each writes one register and no flag, and the result is read bit by bit. -/
theorem bitwiseOperations : Obligations.BitwiseOperations := by
  refine fun x y s => ⟨?_, ?_, ?_⟩
  · obtain ⟨t, ran, result, frame⟩ := exec_of_writeV (i := .or x y) (s := s) rfl rfl
    exact ⟨t, ran, fun b => by rw [result, BitVec.getLsbD_or], frame⟩
  · obtain ⟨t, ran, result, frame⟩ := exec_of_writeV (i := .and x y) (s := s) rfl rfl
    exact ⟨t, ran, fun b => by rw [result, BitVec.getLsbD_and], frame⟩
  · obtain ⟨t, ran, result, frame⟩ := exec_of_writeV (i := .xor x y) (s := s) rfl rfl
    exact ⟨t, ran, fun b => by rw [result, BitVec.getLsbD_xor], frame⟩

end Sys2Proof.Machine
end

section
/-! SUPPORT. The family 44_index.md: what an instruction that writes I answers (R160), and the sum and the glyph
address as numbers (R162, R163). -/

namespace Sys2Proof.Machine

/-! ### The shape of the family -/

/-- An instruction whose check passes and whose effect writes to I a word worth n moves I and PC alone (R160). -/
theorem exec_of_setI {i : Instr} {s : State} {w : Word} {n : Nat} (passes : check i s = none)
    (writes : effect i s = (s.setI w).advance) (value : w.toNat = n) :
    ∃ t, exec i s = .next t ∧ t.i.toNat = n ∧ t = { s with i := t.i, pc := s.pc + 2 } :=
  ⟨_, exec_eq_next.mpr ⟨passes, writes⟩, value, rfl⟩

/-! ### The values of I as numbers -/

/-- A word and a register added modulo 2^16 (R162; D15). -/
theorem State.add_wideV_toNat (s : State) (w : Word) (x : Reg) :
    (w + s.wideV x).toNat = (w.toNat + (s.readV x).toNat) % 65536 := by
  rw [BitVec.toNat_add, State.wideV_toNat]

/-- The glyph address of a low nibble fits in a word (R163; D12). -/
theorem glyphOperand_toNat (v : Byte) : (glyphOperand v).toNat = 0x050 + 5 * (v.toNat % 16) := by
  have fits : 0x050 + 5 * (v.toNat % 16) < 2 ^ 16 := by omega
  exact Nat.mod_eq_of_lt fits

/-! ### The obligation of the family -/

/-- Settles O33: none of the three has a check, and each writes I alone, its word read as a number. -/
theorem indexInstructions : Obligations.IndexInstructions :=
  fun nnn x s =>
    ⟨exec_of_setI rfl rfl (addrOperand_toNat nnn), exec_of_setI rfl rfl (s.add_wideV_toNat s.i x),
      exec_of_setI rfl rfl (glyphOperand_toNat (s.readV x))⟩

end Sys2Proof.Machine
end

section
/-! SUPPORT. The family 45_random.md: one call of the random source, with a byte supplied and without (R170), and
`Random` as the load of the masked byte after that call (R171). -/

namespace Sys2Proof.Machine

/-! ### One call of the source -/

/-- A supplied byte is what the call answers. -/
theorem State.rndByte_of_supplied {s : State} {b : Byte} {bs : List Byte} (h : s.rngInput = b :: bs) :
    s.rndByte = b := by
  rw [State.rndByte, h]

/-- With no byte supplied the call answers a free value (log entry 2). -/
theorem State.rndByte_of_unsupplied {s : State} (h : s.rngInput = []) :
    s.rndByte = Config.freeRandomByte s.rngDraws := by
  rw [State.rndByte, h]

/-- The call uses up the supplied byte and moves nothing else. -/
theorem State.rndNext_of_supplied {s : State} {b : Byte} {bs : List Byte} (h : s.rngInput = b :: bs) :
    s.rndNext = { s with rngInput := bs } := by
  rw [State.rndNext, h]

/-- With no byte supplied the call is counted and moves nothing else. -/
theorem State.rndNext_of_unsupplied {s : State} (h : s.rngInput = []) :
    s.rndNext = { s with rngDraws := s.rngDraws + 1 } := by
  rw [State.rndNext, h]

/-- `Random` loads the masked byte in the state after the call (R171). -/
theorem exec_random_eq_exec_loadByte (x : Reg) (nn : Byte) (s : State) :
    exec (.random x nn) s = exec (.loadByte x (s.rndByte &&& nn)) s.rndNext := rfl

/-! ### The obligations of the family -/

/-- Settles O21: the schedule and the source are in the frame of the effect. -/
theorem hostSideFrame : Obligations.HostSideFrame := by
  intro i s t h
  obtain ⟨-, rfl⟩ := exec_eq_next.mp h
  have frame := effect_frame i s
  refine ⟨?_, fun drawsNone => ⟨?_, ?_⟩⟩
  · simpa using congrArg State.schedule frame
  · simpa [drawsNone] using congrArg State.rngInput frame
  · simpa [drawsNone] using congrArg State.rngDraws frame

/-- Settles O34: a load of one register, in the state each kind of call leaves. -/
theorem randomMasksOneByte : Obligations.RandomMasksOneByte := by
  refine fun x nn s => ⟨fun b bs supplied => ?_, fun unsupplied => ?_⟩
  · rw [exec_random_eq_exec_loadByte, State.rndByte_of_supplied supplied, State.rndNext_of_supplied supplied]
    exact exec_of_writeV rfl rfl
  · rw [exec_random_eq_exec_loadByte, State.rndByte_of_unsupplied unsupplied, State.rndNext_of_unsupplied unsupplied]
    exact exec_of_writeV rfl rfl

end Sys2Proof.Machine
end

section
/-! SUPPORT. The family 46_display.md: the pixel loop from the start values of `Draw` as the sprite set of R177, and
what a `Draw` that passes its check answers (R176, R178). -/

namespace Sys2Proof.Machine

/-! ### The pixel loop from the start values -/

/-- The cells the loop's rows address are the sprite's cells (R176). -/
theorem rowsCover_iff_spriteCovers {s : State} {x y : Reg} {n : Nat} {cx : Fin 64} {cy : Fin 32} :
    rowsCover s.mem s.base (s.readV x).toNat (s.readV y).toNat n cx cy ↔ spriteCovers s x y n cx cy := by
  have row : ∀ r, cy = wrapY ((s.readV y).toNat + r) ↔ cy.val = ((s.readV y).toNat + r) % 32 :=
    fun _ => Fin.ext_iff
  simp only [rowsCover, rowCovers, row, spriteCovers, State.base]

/-- The loop toggles the sprite's cells and no others (R177). -/
theorem State.pixel_drawn {n : Nat} (h : n ≤ 32) (s : State) (x y : Reg) (cx : Fin 64) (cy : Fin 32) :
    Grid.pixel (s.drawn x y n).grid cx cy = true ↔
      ¬ (Grid.pixel s.grid cx cy = true ↔ spriteCovers s x y n cx cy) := by
  rw [← rowsCover_iff_spriteCovers]
  exact (DrawAcc.rows_toggle _ _ _ _ n _ h).1 cx cy

/-- It collides where the sprite and the grid share a set cell (R177). -/
theorem State.drawn_collision {n : Nat} (h : n ≤ 32) (s : State) (x y : Reg) :
    (s.drawn x y n).collision = true ↔
      ∃ cx cy, spriteCovers s x y n cx cy ∧ Grid.pixel s.grid cx cy = true := by
  simp only [← rowsCover_iff_spriteCovers]
  exact (DrawAcc.rows_toggle _ _ _ _ n _ h).2.trans (or_iff_right Bool.false_ne_true)

/-- No rows leave the grid and no collision (R178). -/
theorem State.drawn_zero (s : State) (x y : Reg) : s.drawn x y 0 = { grid := s.grid, collision := false } := rfl

/-! ### What `Draw` answers -/

/-- A `Draw` whose check passes takes the loop's grid, sets DIRTY, writes the collision to VF, and moves nothing else
but PC (R176). -/
theorem exec_draw_of_inBounds {s : State} {n : Nat} (h : n = 0 ∨ s.i.toNat + n ≤ 4096) (x y : Reg) :
    ∃ t, exec (.draw x y n) s = .next t ∧
      t.readV 15 = (if (s.drawn x y n).collision = true then 1 else 0) ∧
      (∀ r, r ≠ 15 → t.readV r = s.readV r) ∧
      t = { s with v := t.v, grid := (s.drawn x y n).grid, dirty := true, pc := s.pc + 2 } := by
  have passes : check (.draw x y n) s = none := boundsFault_eq_none.mpr h
  exact ⟨_, exec_eq_next.mpr ⟨passes, rfl⟩, State.readV_writeV_same _ vf _,
    fun _ other => State.readV_writeV_ne other _ _, rfl⟩

/-- A flag's byte is one of the two values of VF (R13). -/
theorem flagByte_eq_zero_or_one (c : Bool) :
    (if c = true then 1 else 0 : Byte) = 0 ∨ (if c = true then 1 else 0 : Byte) = 1 := by
  cases c
  · exact .inl rfl
  · exact .inr rfl

/-- A flag is 1 exactly when it is set. -/
theorem flagByte_eq_one {c : Bool} : (if c = true then 1 else 0 : Byte) = 1 ↔ c = true := by
  cases c <;> decide

/-! ### The obligations of the family -/

/-- Settles O39: the grid is the loop's and VF its collision, both read as facts about the sprite's cells. -/
theorem drawTogglesSpriteCells : Obligations.DrawTogglesSpriteCells := by
  intro x y n s few inBounds
  have rows : n ≤ 32 := by omega
  obtain ⟨t, ran, flag, others, frame⟩ := exec_draw_of_inBounds inBounds x y
  have grid : t.grid = (s.drawn x y n).grid := congrArg State.grid frame
  refine ⟨t, ran, fun cx cy => ?_, ?_, ?_, others, grid ▸ frame⟩
  · rw [grid, State.pixel_drawn rows]
  · rw [flag]
    exact flagByte_eq_zero_or_one _
  · rw [flag, flagByte_eq_one, State.drawn_collision rows]

/-- Settles O40: no rows pass the check at any I, and the loop ends with the values it starts with. -/
theorem drawNoRows : Obligations.DrawNoRows := by
  intro x y s
  obtain ⟨t, ran, flag, others, frame⟩ := exec_draw_of_inBounds (s := s) (.inl rfl) x y
  rw [State.drawn_zero] at flag frame
  exact ⟨t, ran, flag, others, frame⟩

/-- Settles O38: no check, and the blank grid in the effect. -/
theorem clearDisplayBlanksGrid : Obligations.ClearDisplayBlanksGrid :=
  fun _ => ⟨_, exec_eq_next.mpr ⟨rfl, rfl⟩, Grid.pixel_blank, rfl⟩

end Sys2Proof.Machine
end

section
/-! SUPPORT. The family 47_timer_key.md: the least pressed key as the search finds it (R189; D10), and what the key
wait answers when there is one. -/

namespace Sys2Proof.Machine

/-! ### The least pressed key -/

/-- The search finds k exactly when k is pressed and no key below it is (D10). -/
theorem State.leastKey_eq_some {s : State} {k : Key} :
    s.leastKey = some k ↔ s.keys[k.val] = true ∧ ∀ j : Fin 16, j.val < k.val → s.keys[j.val] = false := by
  rw [State.leastKey, ← Fin.find?_eq_find?_finRange]
  exact Fin.find?_eq_some_iff

/-- With a least pressed key the wait loads its index as a byte (R189). -/
theorem effect_waitForKeyPress_of_leastKey {s : State} {k : Key} (least : s.leastKey = some k) (x : Reg) :
    effect (.waitForKeyPress x) s = (s.writeV x (BitVec.ofNat 8 k.val)).advance := by
  simp only [effect, least]

/-- A key's index fits in a byte. -/
theorem keyByte_toNat (k : Key) : (BitVec.ofNat 8 k.val).toNat = k.val := by
  have fits : k.val < 2 ^ 8 := by omega
  rw [BitVec.toNat_ofNat, Nat.mod_eq_of_lt fits]

/-! ### The obligations of the family -/

/-- Settles O36: the search finds k, and the wait writes one register, its byte read as a number. -/
theorem keyWaitTakesLeastKey : Obligations.KeyWaitTakesLeastKey := by
  intro x k s pressed below
  have least : s.leastKey = some k := State.leastKey_eq_some.mpr ⟨pressed, below⟩
  obtain ⟨t, ran, result, frame⟩ := exec_of_writeV rfl (effect_waitForKeyPress_of_leastKey least x)
  exact ⟨t, ran, by rw [result, keyByte_toNat], frame⟩

/-- Settles O35: none of the three has a check; the first writes one register, the others one timer. -/
theorem timerInstructions : Obligations.TimerInstructions :=
  fun _ _ => ⟨exec_of_writeV rfl rfl, exec_eq_next.mpr ⟨rfl, rfl⟩, exec_eq_next.mpr ⟨rfl, rfl⟩⟩

end Sys2Proof.Machine
end

section
/-! SUPPORT. The family 48_bulk_memory.md: what an instruction that accesses a range of bytes from I on answers, inside
memory and past it (R195–R198), and the decimal digits as numbers (R196). -/

namespace Sys2Proof.Machine

/-! ### The range from I on -/

/-- An instruction whose check is the range of n bytes from I on passes it where they all lie in memory (R55). -/
theorem check_of_inBounds {i : Instr} {s : State} {n : Nat} (checks : check i s = boundsFault s.base n)
    (inBounds : s.i.toNat + n ≤ 4096) : check i s = none :=
  checks.trans (boundsFault_eq_none.mpr (.inr inBounds))

/-- Where they do not, it faults with the lowest address outside memory (R55; D26). -/
theorem exec_of_pastMemory {i : Instr} {s : State} {n : Nat} (checks : check i s = boundsFault s.base n)
    (some_byte : n ≠ 0) (past : 4096 < s.i.toNat + n) :
    exec i s = .fault (.outOfBounds (.mem (max s.i.toNat 4096))) :=
  exec_eq_fault.mpr (checks.trans (boundsFault_eq_some.mpr ⟨⟨some_byte, past⟩, rfl⟩))

/-- A block store or load that completes has its whole block in memory. -/
theorem block_inBounds_of_exec {i : Instr} {x : Reg} {s t : State}
    (checks : check i s = boundsFault s.base (blockLength x)) (h : exec i s = .next t) :
    s.i.toNat + x.val + 1 ≤ 4096 :=
  (boundsFault_eq_none.mp (checks.symm.trans (exec_eq_next.mp h).1)).resolve_left (Nat.succ_ne_zero x.val)

/-- An instruction whose effect writes bytes from I on, all of them in memory, moves those bytes and PC alone and keeps
memory canonical (R195). -/
theorem exec_of_writeBytes {i : Instr} {s : State} {bs : List Byte} (hm : Memory.wf s.mem = true)
    (inBounds : s.i.toNat + bs.length ≤ 4096) (passes : check i s = none)
    (writes : effect i s = (s.setMem (Memory.writeBytes s.mem s.base bs)).advance) :
    ∃ t, exec i s = .next t ∧
      (∀ k, k < bs.length → Memory.read t.mem (s.i.toNat + k) = bs.getD k 0) ∧
      (∀ a, a < s.i.toNat ∨ s.i.toNat + bs.length ≤ a → Memory.read t.mem a = Memory.read s.mem a) ∧
      Memory.wf t.mem = true ∧ t = { s with mem := t.mem, pc := s.pc + 2 } :=
  ⟨_, exec_eq_next.mpr ⟨passes, writes⟩, fun _ => Memory.read_writeBytes_inside hm inBounds,
    fun _ => Memory.read_writeBytes_outside, Memory.wf_writeBytes hm inBounds, rfl⟩

/-! ### The digits -/

/-- A decimal digit fits in a byte. -/
theorem digitByte_toNat {n : Nat} (h : n < 10) : (BitVec.ofNat 8 n).toNat = n := by
  have fits : n < 2 ^ 8 := by omega
  rw [BitVec.toNat_ofNat, Nat.mod_eq_of_lt fits]

/-! ### The obligations of the family -/

/-- Settles O41: the three bytes written are the digits, each of which fits in a byte. -/
theorem storeBcdWritesDigits : Obligations.StoreBcdWritesDigits := by
  refine fun x s hm => ⟨fun inBounds => ?_, exec_of_pastMemory rfl (by decide)⟩
  have := (s.readV x).isLt
  have three : (bcdBytes (s.readV x)).length = 3 := rfl
  obtain ⟨t, ran, digits, outside, canonical, frame⟩ :=
    exec_of_writeBytes (bs := bcdBytes (s.readV x)) hm inBounds (check_of_inBounds (i := .storeBCD x) rfl inBounds) rfl
  refine ⟨t, ran, ?_, ?_, ?_, outside, canonical, frame⟩
  · exact (congrArg BitVec.toNat (digits 0 (by omega))).trans (digitByte_toNat (by omega))
  · exact (congrArg BitVec.toNat (digits 1 (by omega))).trans (digitByte_toNat (by omega))
  · exact (congrArg BitVec.toNat (digits 2 (by omega))).trans (digitByte_toNat (by omega))

/-- Settles O42: byte k of the X + 1 bytes written is V[k]. -/
theorem storeRegistersWritesBlock : Obligations.StoreRegistersWritesBlock := by
  refine fun x s hm => ⟨fun inBounds => ?_, exec_of_pastMemory rfl (Nat.succ_ne_zero x.val)⟩
  have len := s.length_regBytes x
  obtain ⟨t, ran, block, outside, canonical, frame⟩ :=
    exec_of_writeBytes (bs := s.regBytes x) hm (len ▸ inBounds)
      (check_of_inBounds (i := .storeRegisters x) rfl inBounds) rfl
  refine ⟨t, ran, fun k hk => ?_, fun a ha => outside a (by rwa [len]), canonical, frame⟩
  rw [block k.val (by omega), s.getD_regBytes x k hk]

/-- Settles O43: the registers of the block load, those of the block and those above it. -/
theorem loadRegistersReadsBlock : Obligations.LoadRegistersReadsBlock := by
  refine fun x s => ⟨fun inBounds => ?_, exec_of_pastMemory rfl (Nat.succ_ne_zero x.val)⟩
  have passes : check (.loadRegisters x) s = none := check_of_inBounds rfl inBounds
  have register := fun k => s.readV_loadV x k fun j => Memory.read s.mem (s.base + j)
  refine ⟨_, exec_eq_next.mpr ⟨passes, rfl⟩, fun k block => ?_, fun k above => ?_, rfl⟩
  · exact (register k).trans (if_pos block)
  · exact (register k).trans (if_neg (Nat.not_le_of_lt above))

/-- What a block store that completes has done (R197). -/
theorem storeRegisters_next {x : Reg} {s t : State} (hm : Memory.wf s.mem = true)
    (h : exec (.storeRegisters x) s = .next t) :
    (∀ k : Reg, k.val ≤ x.val → Memory.read t.mem (s.i.toNat + k.val) = s.readV k) ∧
    (∀ a, a < s.i.toNat ∨ s.i.toNat + x.val + 1 ≤ a → Memory.read t.mem a = Memory.read s.mem a) ∧
    Memory.wf t.mem = true ∧ t.i = s.i := by
  obtain ⟨t', stored, block, outside, canonical, frame⟩ :=
    (storeRegistersWritesBlock x s hm).1 (block_inBounds_of_exec rfl h)
  obtain rfl := Host.Outcome.next.inj (h.symm.trans stored)
  exact ⟨block, outside, canonical, by rw [frame]⟩

/-- What a block load that completes has done (R198). -/
theorem loadRegisters_next {x : Reg} {s t : State} (h : exec (.loadRegisters x) s = .next t) :
    (∀ k : Reg, k.val ≤ x.val → t.readV k = Memory.read s.mem (s.i.toNat + k.val)) ∧
    (∀ k : Reg, x.val < k.val → t.readV k = s.readV k) ∧ t.i = s.i ∧ t.mem = s.mem := by
  obtain ⟨t', loaded, block, above, frame⟩ := (loadRegistersReadsBlock x s).1 (block_inBounds_of_exec rfl h)
  obtain rfl := Host.Outcome.next.inj (h.symm.trans loaded)
  exact ⟨block, above, by rw [frame], by rw [frame]⟩

/-- Settles O44: neither instruction moves I, so the second meets the block of the first. -/
theorem blockRoundTrips : Obligations.BlockRoundTrips := by
  refine fun x s t u v hm kept => ⟨fun stores loads k => ?_, fun loads stores => ?_⟩
  · obtain ⟨stored, -, -, sameI⟩ := storeRegisters_next hm stores
    obtain ⟨loaded, above, -⟩ := loadRegisters_next loads
    rcases Nat.lt_or_ge x.val k.val with hk | hk
    · exact (above k hk).trans (kept k hk)
    · exact (loaded k hk).trans (sameI ▸ stored k hk)
  · obtain ⟨loaded, -, sameI, sameMem⟩ := loadRegisters_next loads
    obtain ⟨stored, outside, canonical, -⟩ := storeRegisters_next (sameMem ▸ hm) stores
    rw [sameI] at stored outside
    refine Memory.eq_of_read canonical hm fun a => ?_
    by_cases inBlock : s.i.toNat ≤ a ∧ a < s.i.toNat + x.val + 1
    · obtain ⟨k, rfl⟩ := Nat.exists_eq_add_of_le inBlock.1
      have hk : k ≤ x.val := by omega
      exact (stored ⟨k, by omega⟩ hk).trans (loaded ⟨k, by omega⟩ hk)
    · rw [outside a (by omega), sameMem]

end Sys2Proof.Machine
end

section
/-! SUPPORT. The family 60_exceptions.md: the table of R210 as the checks the meanings make, and a timer's count under
one tick and under many (R224–R226). -/

namespace Sys2Proof.Machine

/-! ### The checks of the table -/

/-- The bounds check as the table writes it (R55, R210). -/
theorem boundsFault_eq_ite (a n : Nat) :
    boundsFault a n = if n = 0 ∨ a + n ≤ 4096 then none else some (.outOfBounds (.mem (max a 4096))) := by
  split
  case isTrue fits => exact boundsFault_eq_none.mpr fits
  case isFalse past =>
    rw [not_or, Nat.not_le] at past
    exact boundsFault_eq_some.mpr ⟨past, rfl⟩

/-- Where the range has a byte, it has to lie in memory. -/
theorem boundsFault_succ (a n : Nat) :
    boundsFault a (n + 1) = if a + n + 1 ≤ 4096 then none else some (.outOfBounds (.mem (max a 4096))) := by
  rw [boundsFault_eq_ite]
  exact if_congr (or_iff_right (Nat.succ_ne_zero n)) rfl rfl

/-- The key check as the table writes it (R135, R136, R210). -/
theorem keyFault_eq_ite (v : Byte) :
    keyFault v = if v.toNat ≤ 15 then none else some (.outOfBounds (.key v)) := by
  split
  case isTrue isKey => exact keyFault_eq_none (Nat.lt_succ_of_le isKey)
  case isFalse above => exact keyFault_eq_some (Nat.lt_of_not_le above)

/-- The table of R210 is the check each meaning makes. -/
theorem check_eq_checkByTable (i : Instr) (s : State) : check i s = checkByTable i s := by
  cases i
  case draw x y n => exact boundsFault_eq_ite s.base n
  case storeBCD x => exact boundsFault_succ s.base 2
  case storeRegisters x | loadRegisters x => exact boundsFault_succ s.base x.val
  case skipKeyPressed x | skipKeyNotPressed x => exact keyFault_eq_ite (s.readV x)
  all_goals rfl

/-! ### The timers -/

theorem countDown_toNat (b : Byte) : (countDown b).toNat = b.toNat - 1 := by
  unfold countDown
  split
  case isTrue zero => rw [zero]; rfl
  case isFalse nonzero =>
    have positive : 1 ≤ b.toNat := Nat.one_le_iff_ne_zero.mpr (BitVec.toNat_ne_iff_ne.mpr nonzero)
    exact BitVec.toNat_sub_of_le positive

/-! ### The obligations of the family -/

/-- Settles O12: the check each meaning makes is the one in the table. -/
theorem completesOrFaultsByCheck : Obligations.CompletesOrFaultsByCheck := by
  intro i s
  rw [← check_eq_checkByTable]
  exact ⟨fun _ => exec_eq_fault.mpr, fun passes => ⟨_, exec_eq_next.mpr ⟨passes, rfl⟩⟩⟩

/-- Settles O46: each timer counts down once, and the tone signals compare ST with 1 and 0 as numbers. -/
theorem tickCountsDown : Obligations.TickCountsDown :=
  fun s =>
    ⟨countDown_toNat s.dt, countDown_toNat s.st, rfl, decide_eq_true_iff.trans BitVec.toNat_inj.symm,
      decide_eq_true_iff.trans BitVec.toNat_ne_iff_ne.symm, decide_eq_true_iff.trans BitVec.toNat_ne_iff_ne.symm⟩

/-- Settles O47, by induction on the number of ticks. -/
theorem ticksSaturateAtZero : Obligations.TicksSaturateAtZero := by
  intro k s
  induction k generalizing s with
  | zero => exact ⟨rfl, rfl⟩
  | succ k ih =>
    obtain ⟨dt_rest, st_rest⟩ := ih s.tick
    rw [ticks, dt_rest, st_rest, State.tick_dt, State.tick_st, countDown_toNat, countDown_toNat]
    omega

end Sys2Proof.Machine
end

section
/-! SUPPORT. The family 70_reset_and_hazards.md: what `LOAD` answers (R243), and the invariant from the booted image on
along every run (R242). -/

namespace Sys2Proof.Machine

/-! ### LOAD -/

/-- An image that fits is written from 0x200 on (R243). -/
theorem State.load_of_le {image : List Byte} (h : image.length ≤ 3584) (s : State) :
    s.load image = .next (s.setMem (Memory.writeBytes s.mem 0x200 image)) := if_pos h

/-- A longer one is refused (R243; D27). -/
theorem State.load_of_gt {image : List Byte} (h : 3584 < image.length) (s : State) :
    s.load image = .refused (.loadTooLarge image.length) := if_neg (Nat.not_le_of_lt h)

/-- Settles O51: the bytes written from 0x200 on end at most at the end of memory. -/
theorem loadPlacesImage : Obligations.LoadPlacesImage := by
  refine fun image s hm => ⟨fun fits => ?_, fun long => s.load_of_gt long⟩
  have inside : 0x200 + image.length ≤ Config.memSize := Nat.add_le_add_left fits 0x200
  exact ⟨_, s.load_of_le fits, fun _ => Memory.read_writeBytes_inside hm inside,
    fun _ => Memory.read_writeBytes_outside, Memory.wf_writeBytes hm inside, rfl⟩

/-! ### Runs -/

/-- `LOAD` keeps the invariant: it moves memory alone and keeps it canonical. -/
theorem State.load_keeps_inv {image : List Byte} {s t : State} (h : s.Inv) (loads : s.load image = .next t) :
    t.Inv := by
  obtain ⟨placed, refused⟩ := loadPlacesImage image s h.memory
  rcases Nat.lt_or_ge 3584 image.length with long | fits
  · cases (refused long).symm.trans loads
  · obtain ⟨t', loaded, -, -, canonical, frame⟩ := placed fits
    obtain rfl := Host.Outcome.next.inj (loads.symm.trans loaded)
    rw [frame]
    exact { memory := canonical, pc := h.pc, stack := h.stack }

/-- Settles O57, by induction on the run: reset and `LOAD`, then step by step. -/
theorem reachableStatesMeetInvariant : Obligations.ReachableStatesMeetInvariant := by
  intro s reached
  induction reached with
  | booted image s schedule rng draws boots =>
    exact (State.load_keeps_inv resetMeetsInvariant boots).congr rfl rfl rfl
  | stepped s t _ steps ih => exact stepKeepsInvariant s t ih steps

end Sys2Proof.Machine
end
